-- ==== Sys2Proof/Word.lean ====
section
/-!
DEFINITION. Words and their two readings (spec/00_scope.md R8, R10, R11, R15).
Bits are numbered with 0 the least significant, as the spec's slices `w[hi:lo]` are.
-/

namespace Sys2Proof

/-- A register or memory word: 16 bits, two's complement (R8, R11, R15). -/
abbrev Word := BitVec 16

/-- A program-counter or memory-address-register value: 12 bits (R8). -/
abbrev PcWord := BitVec 12

/-- The byte OUT hands to the printer (R202). -/
abbrev Byte := BitVec 8

/-- `s16(w)`: the signed reading of a word, in -2^15 .. 2^15-1 (R11). -/
abbrev s16 (w : Word) : Int := w.toInt

/-- `wrap16(n)`: the integer `n` modulo 2^16 as a word (R11). -/
abbrev wrap16 (n : Int) : Word := BitVec.ofInt 16 n

/-- `wrap12(n)`: the integer `n` modulo 2^12 as a 12-bit value (R11). -/
abbrev wrap12 (n : Int) : PcWord := BitVec.ofInt 12 n

end Sys2Proof
end

