-- ==== Sys2Proof/Syntax.lean ====
section
/-!
DEFINITION. The 37 instructions of spec/opcode_table.json as syntax (spec/30_encoding.md R300 to R309).

A constructor keeps EVERY operand bit of its word, the bits its format calls unused among them: the
effective-address resolver reads `IR[7:6]`, `IR[5]` and `IR[4:0]` of every word, whatever its format
(R312), so those bits have an effect. Selectors are `Fin 4` (two bits); the numbers 0..31 and 0..15 of
R309 are `Nat`, and `Instr.wellFormed` bounds them; bits that name nothing are bit vectors.
-/

namespace Sys2Proof

/-- The mnemonics of R330, which `OpcodeMap` numbers. `inp` is the table's IN. -/
inductive Mnemonic
  | hlt | ldr | str | lda | amr | smr | air | sir
  | jz | jne | jcc | jma | jsr | rfs | sob | jge
  | mlt | dvd | trr | and | orr | not
  | trap | src | rrc
  | fadd | fsub | vadd | vsub | cnvrt
  | ldx | stx | ldfr | stfr
  | inp | out | chk
  deriving DecidableEq, Repr

/-- Every mnemonic, in the order of R330. -/
def Mnemonic.all : List Mnemonic :=
  [.hlt, .ldr, .str, .lda, .amr, .smr, .air, .sir, .jz, .jne, .jcc, .jma, .jsr, .rfs, .sob, .jge,
   .mlt, .dvd, .trr, .and, .orr, .not, .trap, .src, .rrc, .fadd, .fsub, .vadd, .vsub, .cnvrt,
   .ldx, .stx, .ldfr, .stfr, .inp, .out, .chk]

/-- One instruction word, decoded. In format M and I, `ix`, `ind` and the last field are `IR[7:6]`,
`IR[5]` and `IR[4:0]`. -/
inductive Instr
  /-- HLT, format H (R307): `IR[9:0]` unused. -/
  | hlt (unused : BitVec 10)
  /-- LDR, format M (R301), `r` a GPR. -/
  | ldr (r ix : Fin 4) (ind : Bool) (addr : Nat)
  /-- STR, format M, `r` a GPR. -/
  | str (r ix : Fin 4) (ind : Bool) (addr : Nat)
  /-- LDA, format M, `r` a GPR. -/
  | lda (r ix : Fin 4) (ind : Bool) (addr : Nat)
  /-- AMR, format M, `r` a GPR. -/
  | amr (r ix : Fin 4) (ind : Bool) (addr : Nat)
  /-- SMR, format M, `r` a GPR. -/
  | smr (r ix : Fin 4) (ind : Bool) (addr : Nat)
  /-- AIR, format I (R302), `r` a GPR. -/
  | air (r ix : Fin 4) (ind : Bool) (immed : Nat)
  /-- SIR, format I, `r` a GPR. -/
  | sir (r ix : Fin 4) (ind : Bool) (immed : Nat)
  /-- JZ, format M, `r` a GPR. -/
  | jz (r ix : Fin 4) (ind : Bool) (addr : Nat)
  /-- JNE, format M, `r` a GPR. -/
  | jne (r ix : Fin 4) (ind : Bool) (addr : Nat)
  /-- JCC, format M, `cc` the index of a condition-code flag. -/
  | jcc (cc ix : Fin 4) (ind : Bool) (addr : Nat)
  /-- JMA, format M, RX ignored. -/
  | jma (rx : BitVec 2) (ix : Fin 4) (ind : Bool) (addr : Nat)
  /-- JSR, format M, RX ignored. -/
  | jsr (rx : BitVec 2) (ix : Fin 4) (ind : Bool) (addr : Nat)
  /-- RFS, format I, RX ignored. -/
  | rfs (rx : BitVec 2) (ix : Fin 4) (ind : Bool) (immed : Nat)
  /-- SOB, format M, `r` a GPR. -/
  | sob (r ix : Fin 4) (ind : Bool) (addr : Nat)
  /-- JGE, format M, `r` a GPR. -/
  | jge (r ix : Fin 4) (ind : Bool) (addr : Nat)
  /-- MLT, format RR (R303): `IR[5:0]` unused. -/
  | mlt (rx ry : Fin 4) (unused : BitVec 6)
  /-- DVD, format RR. -/
  | dvd (rx ry : Fin 4) (unused : BitVec 6)
  /-- TRR, format RR. -/
  | trr (rx ry : Fin 4) (unused : BitVec 6)
  /-- AND, format RR. -/
  | and (rx ry : Fin 4) (unused : BitVec 6)
  /-- ORR, format RR. -/
  | orr (rx ry : Fin 4) (unused : BitVec 6)
  /-- NOT, format RR with `IR[7:6]` ignored: `IR[7:0]` unused. -/
  | not (rx : Fin 4) (unused : BitVec 8)
  /-- TRAP, format T (R305): `IR[9:4]` unused. -/
  | trap (unused : BitVec 6) (code : Nat)
  /-- SRC, format SH (R304): `al` is A/L, `lr` is L/R, `IR[5:4]` unused. -/
  | src (r : Fin 4) (al lr : Bool) (unused : BitVec 2) (count : Nat)
  /-- RRC, format SH; `al` is ignored. -/
  | rrc (r : Fin 4) (al lr : Bool) (unused : BitVec 2) (count : Nat)
  /-- FADD, format M, `fr` an FR selector (2 and 3 select none, R601). -/
  | fadd (fr ix : Fin 4) (ind : Bool) (addr : Nat)
  /-- FSUB, format M, `fr` an FR selector. -/
  | fsub (fr ix : Fin 4) (ind : Bool) (addr : Nat)
  /-- VADD, format M, `fr` an FR selector. -/
  | vadd (fr ix : Fin 4) (ind : Bool) (addr : Nat)
  /-- VSUB, format M, `fr` an FR selector. -/
  | vsub (fr ix : Fin 4) (ind : Bool) (addr : Nat)
  /-- CNVRT, format M, `r` a GPR. -/
  | cnvrt (r ix : Fin 4) (ind : Bool) (addr : Nat)
  /-- LDX, format M, RX ignored, `ix` the index register loaded. -/
  | ldx (rx : BitVec 2) (ix : Fin 4) (ind : Bool) (addr : Nat)
  /-- STX, format M, RX ignored, `ix` the index register stored. -/
  | stx (rx : BitVec 2) (ix : Fin 4) (ind : Bool) (addr : Nat)
  /-- LDFR, format M, `fx` the ordering flag (2 and 3 have no meaning, R601). -/
  | ldfr (fx ix : Fin 4) (ind : Bool) (addr : Nat)
  /-- STFR, format M, `fx` the ordering flag. -/
  | stfr (fx ix : Fin 4) (ind : Bool) (addr : Nat)
  /-- IN, format IO (R306): `IR[7:5]` unused. -/
  | inp (r : Fin 4) (unused : BitVec 3) (devid : Nat)
  /-- OUT, format IO. -/
  | out (r : Fin 4) (unused : BitVec 3) (devid : Nat)
  /-- CHK, format IO. -/
  | chk (r : Fin 4) (unused : BitVec 3) (devid : Nat)
  deriving DecidableEq, Repr

/-- The mnemonic of an instruction. -/
def Instr.mnemonic : Instr → Mnemonic
  | .hlt _ => .hlt
  | .ldr _ _ _ _ => .ldr
  | .str _ _ _ _ => .str
  | .lda _ _ _ _ => .lda
  | .amr _ _ _ _ => .amr
  | .smr _ _ _ _ => .smr
  | .air _ _ _ _ => .air
  | .sir _ _ _ _ => .sir
  | .jz _ _ _ _ => .jz
  | .jne _ _ _ _ => .jne
  | .jcc _ _ _ _ => .jcc
  | .jma _ _ _ _ => .jma
  | .jsr _ _ _ _ => .jsr
  | .rfs _ _ _ _ => .rfs
  | .sob _ _ _ _ => .sob
  | .jge _ _ _ _ => .jge
  | .mlt _ _ _ => .mlt
  | .dvd _ _ _ => .dvd
  | .trr _ _ _ => .trr
  | .and _ _ _ => .and
  | .orr _ _ _ => .orr
  | .not _ _ => .not
  | .trap _ _ => .trap
  | .src _ _ _ _ _ => .src
  | .rrc _ _ _ _ _ => .rrc
  | .fadd _ _ _ _ => .fadd
  | .fsub _ _ _ _ => .fsub
  | .vadd _ _ _ _ => .vadd
  | .vsub _ _ _ _ => .vsub
  | .cnvrt _ _ _ _ => .cnvrt
  | .ldx _ _ _ _ => .ldx
  | .stx _ _ _ _ => .stx
  | .ldfr _ _ _ _ => .ldfr
  | .stfr _ _ _ _ => .stfr
  | .inp _ _ _ => .inp
  | .out _ _ _ => .out
  | .chk _ _ _ => .chk

end Sys2Proof
end

