-- ==== Sys2Proof/Config.lean ====
section
/-!
DEFINITION. What an implementation fixes: the named parameters of spec/00_scope.md R9, and the free
values of the device oracle. A parameter the spec leaves OPEN is an opaque constant, so no proof can
see its value. Every meaning is written for an arbitrary `Config.Params`; `Config.params` in Decode.lean is
the one `exec` and `step` take: the defaults of R9 and the opaque constants.
-/

namespace Sys2Proof.Config

/-- The OPEN parameter `FaultHandlerAddr` (R9, D14; log entry 3). -/
opaque faultHandlerAddr : PcWord

/-- The OPEN configuration function `FAdd` (R600, D22; log entry 3). -/
opaque fAdd : Word → Word → Word

/-- The OPEN configuration function `FSub` (R600, D22; log entry 3). -/
opaque fSub : Word → Word → Word

/-- The OPEN configuration function `FToInt` (R600, D22; log entry 3). -/
opaque fToInt : Word → Word

/-- The OPEN configuration function `IntToF` (R600, D22; log entry 3). -/
opaque intToF : Word → Word

/-- The OPEN configuration function `FCount` (R600, D22; log entry 3). -/
opaque fCount : Word → Int

/-- What KbdStatus answers when no reply is queued, `none` being `Fail`: free (R811; log entry 5). -/
opaque freeKbdStatus : Nat → Option Bool

/-- What KbdRead answers when no reply is queued, `none` being `Fail`: free (R811; log entry 5). -/
opaque freeKbdRead : Nat → Option Word

/-- What PrtStatus answers when no reply is queued, `none` being `Fail`: free (R811; log entry 5). -/
opaque freePrtStatus : Nat → Option Bool

/-- What PrtWrite answers when no reply is queued, `none` being `Fail`: free (R811; log entry 5). -/
opaque freePrtWrite : Nat → Option Unit

/-- The values of `MltHighWord` (R9, D17). -/
inductive MltHighWord
  | high | unchanged
  deriving DecidableEq, Repr

/-- The values of `CnvrtSource` (R9, D23). -/
inductive CnvrtSource
  | register | memory
  deriving DecidableEq, Repr

/-- The parameters of R9. They are fixed for a machine and no part of its state (R800). -/
structure Params where
  /-- `OpcodeMap`, injective (`Params.Legal`). -/
  opcodeMap : Mnemonic → BitVec 6
  /-- `FaultHandlerAddr`. -/
  faultHandlerAddr : PcWord
  /-- `TrapDispatch`: none, or a total function of the memory and the trap code. -/
  trapDispatch : Option ((Fin 2048 → Word) → BitVec 4 → PcWord)
  /-- `LinkReg`. -/
  linkReg : Fin 4
  /-- `ParamReg`, distinct from `LinkReg` (`Params.Legal`). -/
  paramReg : Fin 4
  /-- `MltHighWord`. -/
  mltHighWord : MltHighWord
  /-- `TrrClearsOnNe`. -/
  trrClearsOnNe : Bool
  /-- `CnvrtSource`. -/
  cnvrtSource : CnvrtSource
  /-- `HltAdvancesPc`. -/
  hltAdvancesPc : Bool
  /-- `LdxStxIndexed`. -/
  ldxStxIndexed : Bool
  /-- `FAdd`. -/
  fAdd : Word → Word → Word
  /-- `FSub`. -/
  fSub : Word → Word → Word
  /-- `FToInt`. -/
  fToInt : Word → Word
  /-- `IntToF`. -/
  intToF : Word → Word
  /-- `FCount`. -/
  fCount : Word → Int

/-- The two constraints R9 puts on the parameters. -/
structure Params.Legal (p : Params) : Prop where
  opcodeMap_injective : ∀ m n : Mnemonic, p.opcodeMap m = p.opcodeMap n → m = n
  linkReg_ne_paramReg : p.linkReg ≠ p.paramReg

end Sys2Proof.Config
end

