-- ==== Sys2Proof/WellFormed.lean ====
section
/-!
DEFINITION. Which instruction terms stand for a word: the numeric fields lie in the ranges of
spec/30_encoding.md R309. Every other field has exactly its encoded width by its type.
-/

namespace Sys2Proof

/-- The numeric field of an instruction is one the encoding holds (R309): an address, immediate or
device id below 32; a count or trap code below 16. -/
def Instr.wellFormed : Instr → Bool
  | .hlt _ => true
  | .mlt _ _ _ | .dvd _ _ _ | .trr _ _ _ | .and _ _ _ | .orr _ _ _ | .not _ _ => true
  | .ldr _ _ _ a | .str _ _ _ a | .lda _ _ _ a | .amr _ _ _ a | .smr _ _ _ a
  | .jz _ _ _ a | .jne _ _ _ a | .jcc _ _ _ a | .jma _ _ _ a | .jsr _ _ _ a
  | .sob _ _ _ a | .jge _ _ _ a
  | .fadd _ _ _ a | .fsub _ _ _ a | .vadd _ _ _ a | .vsub _ _ _ a | .cnvrt _ _ _ a
  | .ldx _ _ _ a | .stx _ _ _ a | .ldfr _ _ _ a | .stfr _ _ _ a => decide (a < 32)
  | .air _ _ _ n | .sir _ _ _ n | .rfs _ _ _ n => decide (n < 32)
  | .inp _ _ d | .out _ _ d | .chk _ _ d => decide (d < 32)
  | .src _ _ _ _ c | .rrc _ _ _ _ c => decide (c < 16)
  | .trap _ c => decide (c < 16)

end Sys2Proof
end

