-- ==== Sys2Proof/Decode.lean ====
section
/-!
DEFINITION. Decoding and encoding (spec/30_encoding.md R300 to R309, R320, R330 to R333).

Every word is one instruction (R300), so the decoder takes one word; it is total, and a word whose
opcode `OpcodeMap` does not assign is rejected by name (R320, R331): the step then runs the
illegal-opcode handler (R651). Both directions are written for an arbitrary opcode map (D1);
`decode` and `encode` take the default one, which stands first here with the other defaults of
spec/00_scope.md R9.
-/

namespace Sys2Proof

/-! ### The default parameters -/

/-- The default `OpcodeMap` (R330; the numbers are the spec's own general knowledge, log entry 4). -/
def Config.opcodeMap : Mnemonic → BitVec 6
  | .hlt => 0
  | .ldr => 1
  | .str => 2
  | .lda => 3
  | .amr => 4
  | .smr => 5
  | .air => 6
  | .sir => 7
  | .jz => 8
  | .jne => 9
  | .jcc => 10
  | .jma => 11
  | .jsr => 12
  | .rfs => 13
  | .sob => 14
  | .jge => 15
  | .mlt => 16
  | .dvd => 17
  | .trr => 18
  | .and => 19
  | .orr => 20
  | .not => 21
  | .trap => 24
  | .src => 25
  | .rrc => 26
  | .fadd => 27
  | .fsub => 28
  | .vadd => 29
  | .vsub => 30
  | .cnvrt => 31
  | .ldx => 33
  | .stx => 34
  | .ldfr => 40
  | .stfr => 41
  | .inp => 49
  | .out => 50
  | .chk => 51

/-- The parameters `exec` and `step` take: R9's defaults, and the opaque constants where R9 says
OPEN (log entries 3 and 4). -/
def Config.params : Config.Params where
  opcodeMap := opcodeMap
  faultHandlerAddr := faultHandlerAddr
  trapDispatch := none
  linkReg := 3
  paramReg := 0
  mltHighWord := .high
  trrClearsOnNe := false
  cnvrtSource := .register
  hltAdvancesPc := true
  ldxStxIndexed := true
  fAdd := fAdd
  fSub := fSub
  fToInt := fToInt
  intToF := intToF
  fCount := fCount

/-! ### The decoder -/

/-- Why a word is no instruction. -/
inductive DecodeError
  /-- Its opcode field is outside the image of `OpcodeMap` (R320, R331). -/
  | unassignedOpcode (op : BitVec 6)
  deriving DecidableEq, Repr

/-- `w[15:10]`, the opcode (R300). -/
def opcodeField (w : Word) : BitVec 6 := w.extractLsb' 10 6

/-- `w[9:8]` as its two bits (R300). -/
def rxBits (w : Word) : BitVec 2 := w.extractLsb' 8 2

/-- `w[9:8]` as a selector (R300). -/
def rxField (w : Word) : Fin 4 := (rxBits w).toFin

/-- `w[7:6]` as a selector: IX, or Ry of format RR (R300, R303). -/
def ixField (w : Word) : Fin 4 := (w.extractLsb' 6 2).toFin

/-- `w[5]`, the indirect bit (R300). -/
def indField (w : Word) : Bool := w.getLsbD 5

/-- `w[4:0]` as a number: address, immediate or device id (R300, R309). -/
def addrField (w : Word) : Nat := (w.extractLsb' 0 5).toNat

/-- `w[3:0]` as a number: count or trap code (R300, R309). -/
def countField (w : Word) : Nat := (w.extractLsb' 0 4).toNat

/-- `w[7]`, A/L (R304). -/
def alField (w : Word) : Bool := w.getLsbD 7

/-- `w[6]`, L/R (R304). -/
def lrField (w : Word) : Bool := w.getLsbD 6

/-- The instruction of mnemonic `m` whose operand bits are those of `w` (R301 to R307). -/
def decodeFields (m : Mnemonic) (w : Word) : Instr :=
  match m with
  | .hlt => .hlt (w.extractLsb' 0 10)
  | .ldr => .ldr (rxField w) (ixField w) (indField w) (addrField w)
  | .str => .str (rxField w) (ixField w) (indField w) (addrField w)
  | .lda => .lda (rxField w) (ixField w) (indField w) (addrField w)
  | .amr => .amr (rxField w) (ixField w) (indField w) (addrField w)
  | .smr => .smr (rxField w) (ixField w) (indField w) (addrField w)
  | .air => .air (rxField w) (ixField w) (indField w) (addrField w)
  | .sir => .sir (rxField w) (ixField w) (indField w) (addrField w)
  | .jz => .jz (rxField w) (ixField w) (indField w) (addrField w)
  | .jne => .jne (rxField w) (ixField w) (indField w) (addrField w)
  | .jcc => .jcc (rxField w) (ixField w) (indField w) (addrField w)
  | .jma => .jma (rxBits w) (ixField w) (indField w) (addrField w)
  | .jsr => .jsr (rxBits w) (ixField w) (indField w) (addrField w)
  | .rfs => .rfs (rxBits w) (ixField w) (indField w) (addrField w)
  | .sob => .sob (rxField w) (ixField w) (indField w) (addrField w)
  | .jge => .jge (rxField w) (ixField w) (indField w) (addrField w)
  | .mlt => .mlt (rxField w) (ixField w) (w.extractLsb' 0 6)
  | .dvd => .dvd (rxField w) (ixField w) (w.extractLsb' 0 6)
  | .trr => .trr (rxField w) (ixField w) (w.extractLsb' 0 6)
  | .and => .and (rxField w) (ixField w) (w.extractLsb' 0 6)
  | .orr => .orr (rxField w) (ixField w) (w.extractLsb' 0 6)
  | .not => .not (rxField w) (w.extractLsb' 0 8)
  | .trap => .trap (w.extractLsb' 4 6) (countField w)
  | .src => .src (rxField w) (alField w) (lrField w) (w.extractLsb' 4 2) (countField w)
  | .rrc => .rrc (rxField w) (alField w) (lrField w) (w.extractLsb' 4 2) (countField w)
  | .fadd => .fadd (rxField w) (ixField w) (indField w) (addrField w)
  | .fsub => .fsub (rxField w) (ixField w) (indField w) (addrField w)
  | .vadd => .vadd (rxField w) (ixField w) (indField w) (addrField w)
  | .vsub => .vsub (rxField w) (ixField w) (indField w) (addrField w)
  | .cnvrt => .cnvrt (rxField w) (ixField w) (indField w) (addrField w)
  | .ldx => .ldx (rxBits w) (ixField w) (indField w) (addrField w)
  | .stx => .stx (rxBits w) (ixField w) (indField w) (addrField w)
  | .ldfr => .ldfr (rxField w) (ixField w) (indField w) (addrField w)
  | .stfr => .stfr (rxField w) (ixField w) (indField w) (addrField w)
  | .inp => .inp (rxField w) (w.extractLsb' 5 3) (addrField w)
  | .out => .out (rxField w) (w.extractLsb' 5 3) (addrField w)
  | .chk => .chk (rxField w) (w.extractLsb' 5 3) (addrField w)

/-- `OpcodeMap^-1`: the mnemonic an opcode value selects, if any (R320, R350). -/
def mnemonicOf (om : Mnemonic → BitVec 6) (op : BitVec 6) : Option Mnemonic :=
  Mnemonic.all.find? fun m => om m == op

/-- Decode one word under an opcode map (R320, R333). -/
def decodeWith (om : Mnemonic → BitVec 6) (w : Word) : Except DecodeError Instr :=
  match mnemonicOf om (opcodeField w) with
  | some m => .ok (decodeFields m w)
  | none => .error (.unassignedOpcode (opcodeField w))

/-- Decode one word under the default opcode map (R330). -/
def decode (w : Word) : Except DecodeError Instr := decodeWith Config.opcodeMap w

/-! ### The encoder -/

/-- The two bits of a selector. -/
def selBits (r : Fin 4) : BitVec 2 := BitVec.ofFin r

/-- Ten operand bits laid out as formats M, I and (with `ry` for `ix`) RR begin: RX, IX, I, and the
five bits `IR[4:0]` (R301, R302). -/
def operandsM (rx : BitVec 2) (ix : Fin 4) (ind : Bool) (addr : Nat) : BitVec 10 :=
  rx ++ selBits ix ++ BitVec.ofBool ind ++ BitVec.ofNat 5 addr

/-- The operand bits of format RR (R303). -/
def operandsRR (rx ry : Fin 4) (unused : BitVec 6) : BitVec 10 :=
  selBits rx ++ selBits ry ++ unused

/-- The operand bits of format SH (R304). -/
def operandsSH (r : Fin 4) (al lr : Bool) (unused : BitVec 2) (count : Nat) : BitVec 10 :=
  selBits r ++ BitVec.ofBool al ++ BitVec.ofBool lr ++ unused ++ BitVec.ofNat 4 count

/-- The operand bits of format IO (R306). -/
def operandsIO (r : Fin 4) (unused : BitVec 3) (devid : Nat) : BitVec 10 :=
  selBits r ++ unused ++ BitVec.ofNat 5 devid

/-- `IR[9:0]` of an instruction (R301 to R307). -/
def operandBits : Instr → BitVec 10
  | .hlt u => u
  | .ldr r ix ind a | .str r ix ind a | .lda r ix ind a | .amr r ix ind a | .smr r ix ind a
  | .air r ix ind a | .sir r ix ind a | .jz r ix ind a | .jne r ix ind a | .jcc r ix ind a
  | .sob r ix ind a | .jge r ix ind a | .fadd r ix ind a | .fsub r ix ind a | .vadd r ix ind a
  | .vsub r ix ind a | .cnvrt r ix ind a | .ldfr r ix ind a | .stfr r ix ind a =>
    operandsM (selBits r) ix ind a
  | .jma rx ix ind a | .jsr rx ix ind a | .rfs rx ix ind a | .ldx rx ix ind a
  | .stx rx ix ind a => operandsM rx ix ind a
  | .mlt rx ry u | .dvd rx ry u | .trr rx ry u | .and rx ry u | .orr rx ry u => operandsRR rx ry u
  | .not rx u => selBits rx ++ u
  | .trap u code => u ++ BitVec.ofNat 4 code
  | .src r al lr u c | .rrc r al lr u c => operandsSH r al lr u c
  | .inp r u d | .out r u d | .chk r u d => operandsIO r u d

/-- The word of an instruction under an opcode map (R300). -/
def encodeWith (om : Mnemonic → BitVec 6) (i : Instr) : Word :=
  om i.mnemonic ++ operandBits i

/-- The word of an instruction under the default opcode map (R330). -/
def encode (i : Instr) : Word := encodeWith Config.opcodeMap i

/-- The instruction the decoder reads from the bits `w`, numbered as spec/opcode_table.json numbers
them: an instruction is one 16-bit word (R300), so a bit above the sixteenth is no instruction's. -/
def decodeTableWord (nbits w : Nat) : Option Instr :=
  let v := w % 2 ^ nbits
  if v < 2 ^ 16 then
    match decode (BitVec.ofNat 16 v) with
    | .ok i => some i
    | .error _ => none
  else none

end Sys2Proof
end

