-- ==== Sys2Proof/Machine/State.lean ====
section
/-!
DEFINITION. The machine's state (spec/10_state.md R100 to R117), the reasons a step stops, and reset.

Every field but `dev` is the spec's. `dev` is the model's own: the device oracle of
spec/70_reset_and_hazards.md R811 as plain data (log entry 5).
-/

namespace Sys2Proof.Machine

/-- Memory: the listed (address, word) cells; an unlisted address reads as 0 (R101, R117).
`Memory.wf` in Machine/Ops.lean is its canonical form. A cell holds a word, since no byte address
exists (R15, R200; log entry 1). -/
abbrev Memory := List (Nat × Word)

/-- The four device calls of R570. -/
inductive DeviceCall
  | kbdStatus | kbdRead | prtStatus | prtWrite
  deriving DecidableEq, Repr

/-- The device oracle `D` (R811; log entry 5). What each of the four calls of R570 answers is a function of it
(Machine/Io.lean): the head of the call's queue here, `none` standing for `Fail`, or on an empty queue a
free value, the opaque constant of Config applied to `calls`. A status call leaves `D` as it is; `KbdRead`
and `PrtWrite` move it on; the environment may replace it between two steps. -/
structure Devices where
  /-- What `KbdStatus()` answers now, then after each `KbdRead()`. -/
  kbdStatusDraws : List (Option Bool)
  /-- What each coming `KbdRead()` answers. -/
  kbdReadDraws : List (Option Word)
  /-- What `PrtStatus()` answers now, then after each `PrtWrite(b)`. -/
  prtStatusDraws : List (Option Bool)
  /-- What each coming `PrtWrite(b)` answers. -/
  prtWriteDraws : List (Option Unit)
  /-- How many calls of `KbdRead` and `PrtWrite` have been made: the index of the free values. -/
  calls : Nat
  /-- The bytes `PrtWrite` was called with and did not fail on, latest last. -/
  printed : List Byte
  deriving DecidableEq, Repr

/-- The architectural state (R100), and the oracle beside it. -/
structure State where
  /-- GPR0 to GPR3 (R103). -/
  gpr : Vector Word 4
  /-- X1 to X3, at indices 0 to 2 (R105). -/
  x : Vector Word 3
  /-- FR0 and FR1 (R112). -/
  fr : Vector Word 2
  /-- The program counter (R106). -/
  pc : PcWord
  /-- The instruction register (R108). -/
  ir : Word
  /-- The memory address register (R109). -/
  mar : PcWord
  /-- The memory buffer register (R109). -/
  mbr : Word
  /-- CC[0..3], CC[0] the most significant bit (R110, R11). -/
  cc : BitVec 4
  /-- MFR[0..3], MFR[0] the most significant bit (R111, R11). -/
  mfr : BitVec 4
  /-- M[0..2047] (R200). -/
  mem : Memory
  /-- The run status HLT sets (R113). -/
  halted : Bool
  /-- The device oracle: the model's own (R811; log entry 5). -/
  dev : Devices
  deriving DecidableEq, Repr

/-- The MFR-class faults (R701). Raising one is no stop of the model: the fault controller handles it
within the step (R710). -/
inductive FaultKind
  /-- MFR[0] (R704). -/
  | illegalAddress
  /-- MFR[1] (R705). -/
  | illegalOpcode
  /-- MFR[3] (R706). -/
  | protectionViolation
  deriving DecidableEq, Repr

/-- Why a step of the model stops. -/
inductive Fault
  /-- Raised by IN, OUT and CHK when a device call reports a failure (R354, R708): the step ends with
  outcome HostError and the machine is in the state `reached`, the fault controller not having run.
  Safe: the spec itself makes it a stop that is never a successful end (R354, R812). -/
  | hostError (call : DeviceCall) (reached : State)
  deriving DecidableEq, Repr

/-- Why a step of the model has no meaning. -/
inductive Refusal
  /-- Raised by exec for an instruction that has no meaning yet; no arm of this model does. Safe: the
  model says nothing of the instruction. -/
  | notModelled (mnemonic : String)
  /-- Raised by the host's loader, never by a step, for a location outside 0..2047 (R802, D46). Safe: the
  spec says the host interface refuses the pair and no state changes for it. -/
  | loadLocation (location : Int)
  deriving DecidableEq, Repr

/-- The devices at reset. The core does not reset them (R800, R811); the state right after reset has
nothing queued, a DESIGN CHOICE (log entry 5). -/
def Devices.reset : Devices where
  kbdStatusDraws := []
  kbdReadDraws := []
  prtStatusDraws := []
  prtWriteDraws := []
  calls := 0
  printed := []

/-- The machine right after reset: every register, flag and memory word is 0 (R117, R800). -/
def State.reset : State where
  gpr := Vector.replicate 4 0
  x := Vector.replicate 3 0
  fr := Vector.replicate 2 0
  pc := 0
  ir := 0
  mar := 0
  mbr := 0
  cc := 0
  mfr := 0
  mem := []
  halted := false
  dev := Devices.reset

end Sys2Proof.Machine
end

