-- ==== Sys2Proof/Machine/Flags.lean ====
section
/-!
DEFINITION. The flag computations: the condition codes (spec/10_state.md R110) and the memory-fault
register (R111). Index 0 of either is the most significant bit (spec/00_scope.md R11).
-/

namespace Sys2Proof.Machine

/-- Bit `i` of a four-flag register, index 0 the most significant (R11). -/
def flagGet (f : BitVec 4) (i : Fin 4) : Bool := f.getMsbD i

/-- The register with only bit `i` set. -/
def flagBit (i : Fin 4) : BitVec 4 := 8#4 >>> i.val

/-- The register with bit `i` set to 1. -/
def flagSet (f : BitVec 4) (i : Fin 4) : BitVec 4 := f ||| flagBit i

/-- The register with bit `i` cleared to 0. -/
def flagClear (f : BitVec 4) (i : Fin 4) : BitVec 4 := f &&& ~~~ flagBit i

/-- The condition codes after a divide by zero: CC[2] set (R110, R502, R707). -/
def ccDivideByZero (cc : BitVec 4) : BitVec 4 := flagSet cc 2

/-- The condition codes after TRR: CC[3] set on equality; on inequality cleared only under
`TrrClearsOnNe` (R110, R520). -/
def ccCompare (clearsOnNe : Bool) (a b : Word) (cc : BitVec 4) : BitVec 4 :=
  if a = b then flagSet cc 3
  else if clearsOnNe then flagClear cc 3
  else cc

/-- The condition codes after a taken JCC: the tested bit is consumed (R110, R463). -/
def ccConsume (i : Fin 4) (cc : BitVec 4) : BitVec 4 := flagClear cc i

/-- The MFR bit of a fault (R111, R701). -/
def mfrIndex : FaultKind → Fin 4
  | .illegalAddress => 0
  | .illegalOpcode => 1
  | .protectionViolation => 3

/-- MFR after `raise k` (R702). -/
def mfrRaise (k : FaultKind) (mfr : BitVec 4) : BitVec 4 := flagSet mfr (mfrIndex k)

/-- The packed MFR the controller records in `M[1]` (R11, R701, R710). -/
def mfrSnapshot (mfr : BitVec 4) : Word := mfr.setWidth 16

end Sys2Proof.Machine
end

