-- ==== Sys2Proof/Machine/Ops.lean ====
section
/-!
DEFINITION. The named operations over registers and memory (spec/20_memory.md R206 to R208), fetch
(spec/30_encoding.md R350), and taking a fault: `raise` (spec/60_exceptions.md R702), `complete`
(30_encoding.md R352) and `faultController` (60_exceptions.md R710), put together by `finish`.
There is no return-from-fault or return-from-trap instruction (R562, R715): a handler returns by a jump.
-/

namespace Sys2Proof.Machine

/-! ### Memory -/

/-- The word at an address; an unlisted one reads as 0 (R101, R117). -/
def Memory.read : Memory → Nat → Word
  | [], _ => 0#16
  | (b, v) :: rest, a => if a = b then v else Memory.read rest a

/-- Memory with the word at `a` set to `v`, keeping the canonical form: rising addresses, and no cell
that holds what an unlisted address reads as. -/
def Memory.write : Memory → Nat → Word → Memory
  | [], a, v => if v = 0#16 then [] else [(a, v)]
  | (b, u) :: rest, a, v =>
    if a < b then (if v = 0#16 then (b, u) :: rest else (a, v) :: (b, u) :: rest)
    else if a = b then (if v = 0#16 then rest else (a, v) :: rest)
    else (b, u) :: Memory.write rest a v

/-- Every address is at least `lo` and the addresses rise; each is below 2048 (R200); no cell holds 0. -/
def Memory.wfFrom : Nat → Memory → Bool
  | _, [] => true
  | lo, (a, v) :: rest => decide (lo ≤ a) && decide (a < 2048) && decide (v ≠ 0#16) && Memory.wfFrom (a + 1) rest

/-- The canonical form of memory. -/
def Memory.wf (m : Memory) : Bool := Memory.wfFrom 0 m

/-! ### Updates of one field -/

/-- `GPR[r]` (R103). -/
def State.readGpr (s : State) (r : Fin 4) : Word := s.gpr[r]

/-- `GPR[r] <- v` (R103). -/
def State.writeGpr (s : State) (r : Fin 4) (v : Word) : State := { s with gpr := s.gpr.set r v }

/-- `FR[f]` (R112). -/
def State.readFr (s : State) (f : Fin 2) : Word := s.fr[f]

/-- `FR[f] <- v` (R112). -/
def State.writeFr (s : State) (f : Fin 2) (v : Word) : State := { s with fr := s.fr.set f v }

/-- The index register an IX selector picks: 0 picks none, 1 to 3 pick X1 to X3, which stand at 0 to 2
(R105). -/
def xSlot : Fin 4 → Option (Fin 3)
  | 0 => none
  | 1 => some 0
  | 2 => some 1
  | 3 => some 2

/-- `X[k+1]` (R105). -/
def State.readX (s : State) (k : Fin 3) : Word := s.x[k]

/-- `X[k+1] <- v` (R105). -/
def State.writeX (s : State) (k : Fin 3) (v : Word) : State := { s with x := s.x.set k v }

/-- `PC <- t` (R106). -/
def State.setPc (s : State) (t : PcWord) : State := { s with pc := t }

/-- `PC <- wrap12(PC + 1)` (R107). -/
def State.advancePc (s : State) : State := s.setPc (s.pc + 1#12)

/-- `IR <- w` (R108). -/
def State.setIr (s : State) (w : Word) : State := { s with ir := w }

/-- CC replaced (R110). -/
def State.setCc (s : State) (cc : BitVec 4) : State := { s with cc := cc }

/-- MFR replaced (R111). -/
def State.setMfr (s : State) (mfr : BitVec 4) : State := { s with mfr := mfr }

/-- `Halted` replaced (R113). -/
def State.setHalted (s : State) (b : Bool) : State := { s with halted := b }

/-- Memory replaced (R200). -/
def State.setMem (s : State) (m : Memory) : State := { s with mem := m }

/-- MAR and MBR set by an access to address `a` that moved `v` (R109). -/
def State.setBuffers (s : State) (a : Nat) (v : Word) : State :=
  { s with mar := BitVec.ofNat 12 a, mbr := v }

/-- The device oracle replaced (R811). -/
def State.setDev (s : State) (d : Devices) : State := { s with dev := d }

/-! ### What a part of an instruction answers -/

/-- A part of a step either yields a value and goes on, or has raised a fault and abandoned the rest of
the instruction (R12, R702). Either way it carries the writes made so far. -/
inductive Res (α : Type) where
  /-- Yields `a` and goes on. -/
  | ok (a : α) (s : State)
  /-- Raised `k`; the rest of the instruction is abandoned. -/
  | raised (k : FaultKind) (s : State)
  deriving DecidableEq, Repr

/-- Go on after a part of an instruction, unless it raised (R702). -/
def Res.bind {α β : Type} (r : Res α) (f : α → State → Res β) : Res β :=
  match r with
  | .ok a s => f a s
  | .raised k s => .raised k s

/-- `raise k`: set the MFR bit of `k` and abandon the rest; no write already made is undone (R702). -/
def raise {α : Type} (k : FaultKind) (s : State) : Res α := .raised k (s.setMfr (mfrRaise k s.mfr))

/-! ### Memory access -/

/-- An address that exists (R200, R205). -/
def inMemory (n : Int) : Bool := decide (0 ≤ n) && decide (n ≤ 2047)

/-- A reserved vector slot (R205). -/
def isReserved (n : Int) : Bool := decide (n ≤ 9)

/-- `MemRead(n, 1)` (R206). -/
def memRead (n : Int) (s : State) : Res Word :=
  if inMemory n then
    .ok (s.mem.read n.toNat) (s.setBuffers n.toNat (s.mem.read n.toNat))
  else raise .illegalAddress s

/-- `MemWrite(n, 1, v)`, the unchecked write of the architectural conventions (R207). -/
def memWrite (n : Nat) (v : Word) (s : State) : State :=
  (s.setMem (s.mem.write n v)).setBuffers n v

/-- `StoreWrite(n, v)`, the write of every store instruction: the range first, then the reserved slots
(R208). -/
def storeWrite (n : Int) (v : Word) (s : State) : Res Unit :=
  if inMemory n then
    if isReserved n then raise .protectionViolation s
    else .ok () (memWrite n.toNat v s)
  else raise .illegalAddress s

/-- The fetch phase: `IR <- MemRead(u12(PC), 1)`; an address of 2048 or more raises IllegalAddress and
leaves IR, MAR and MBR alone (R350, R351). -/
def fetch (s : State) : Res Unit :=
  (memRead s.pc.toNat s).bind fun w s => .ok () (s.setIr w)

/-! ### Ending a step -/

/-- The ways a handler completes without a fault (R352). -/
inductive Ending
  /-- PC is not set: it advances by 1. -/
  | next
  /-- PC is set to a target. -/
  | jump (t : PcWord)
  /-- HLT. -/
  | halt
  deriving DecidableEq, Repr

/-- `Complete` (R352). -/
def complete (p : Config.Params) : Res Ending → State
  | .ok .next s => s.advancePc
  | .ok (.jump t) s => s.setPc t
  | .ok .halt s =>
    if p.hltAdvancesPc then (s.setHalted true).advancePc else s.setHalted true
  | .raised .illegalAddress s => s
  | .raised .illegalOpcode s => s.advancePc
  | .raised .protectionViolation s => s.advancePc

/-- The word the controller writes into slot 4 for a program counter (R710). -/
def pcSnapshot (pc : PcWord) : Word := pc.setWidth 16

/-- Where the controller leaves PC: at `FaultHandlerAddr` when MFR[0] is set (R710). -/
def redirectedPc (p : Config.Params) (s : State) : PcWord :=
  if flagGet s.mfr 0 then p.faultHandlerAddr else s.pc

/-- `FaultController()` (R710): with any MFR bit set, record MFR in slot 1, redirect PC on MFR[0],
clear MFR, record PC in slot 4; otherwise nothing. -/
def faultController (p : Config.Params) (s : State) : State :=
  if s.mfr = 0#4 then s
  else
    memWrite 4 (pcSnapshot (redirectedPc p s))
      (((memWrite 1 (mfrSnapshot s.mfr) s).setPc (redirectedPc p s)).setMfr 0#4)

/-- The outcome a step returns to the host, HostError apart (R354). -/
inductive StepOutcome
  | ok | halt | faulted (k : FaultKind)
  deriving DecidableEq, Repr

/-- The outcome of a completion (R352, R354). -/
def outcomeOf : Res Ending → StepOutcome
  | .ok .next _ => .ok
  | .ok (.jump _) _ => .ok
  | .ok .halt _ => .halt
  | .raised k _ => .faulted k

/-- What a step returns: an outcome and the state after it, or HostError and the state at the failure
(R354). -/
inductive Report
  /-- The step came to its end. -/
  | done (o : StepOutcome) (s : State)
  /-- A device call failed: nothing more was done (R352, R354). -/
  | hostError (call : DeviceCall) (s : State)
  deriving DecidableEq, Repr

/-- The state after a step, whatever its outcome (R354). -/
def Report.state : Report → State
  | .done _ s => s
  | .hostError _ s => s

/-- The end of a step: `Complete`, then the fault controller (R350, R352, R710). -/
def finish (p : Config.Params) (r : Res Ending) : Report :=
  .done (outcomeOf r) (faultController p (complete p r))

/-- A report as the host's outcome: a step that came to its end gives a next state, HostError stops
(R354, R812; log entries 6 and 7). -/
def Report.toHost : Report → Host.Outcome State Fault Refusal
  | .done _ s => .next s
  | .hostError c s => .fault (.hostError c s)

end Sys2Proof.Machine
end

