-- ==== Sys2Proof/Machine/Operands.lean ====
section
/-!
DEFINITION. Operand forms: the three fields the resolver reads of every word, format by format
(spec/30_encoding.md R300 to R307, R312), the effective-address resolver (R310), the jump-target check
(spec/42_branch.md R460), the FR selector (spec/48_float_vector.md R601), the immediate (R309) and the
16-bit arithmetic of R444.
-/

namespace Sys2Proof.Machine

/-- What the resolver reads of a word: `IR[7:6]`, `IR[5]` and `IR[4:0]` (R310, R312). -/
structure EaFields where
  /-- IX, `IR[7:6]`. -/
  ix : Fin 4
  /-- I, `IR[5]`. -/
  indirect : Bool
  /-- Address, `IR[4:0]`. -/
  addr : Nat
  deriving DecidableEq, Repr

/-- A number taken modulo 4, as a selector. -/
def selOfNat (n : Nat) : Fin 4 := Fin.ofNat 4 n

/-- The resolver's fields of a raw word, for one no instruction has (R312). -/
def EaFields.ofWord (w : Word) : EaFields where
  ix := selOfNat (w.extractLsb' 6 2).toNat
  indirect := w.getLsbD 5
  addr := (w.extractLsb' 0 5).toNat

/-- Format RR: Ry stands where IX does, and the low bits are unused (R303, R312). -/
def EaFields.ofRR (ry : Fin 4) (unused : BitVec 6) : EaFields where
  ix := ry
  indirect := unused.getLsbD 5
  addr := (unused.extractLsb' 0 5).toNat

/-- NOT: `IR[7:0]` unused (R303, R312). -/
def EaFields.ofNot (unused : BitVec 8) : EaFields where
  ix := selOfNat (unused.extractLsb' 6 2).toNat
  indirect := unused.getLsbD 5
  addr := (unused.extractLsb' 0 5).toNat

/-- Format SH: A/L and L/R stand where IX does, the upper unused bit where I does (R304, R312). -/
def EaFields.ofSH (al lr : Bool) (unused : BitVec 2) (count : Nat) : EaFields where
  ix := selOfNat (2 * al.toNat + lr.toNat)
  indirect := unused.getLsbD 1
  addr := 16 * (unused.getLsbD 0).toNat + count

/-- Format T: `IR[9:4]` unused, over the code (R305, R312). -/
def EaFields.ofT (unused : BitVec 6) (code : Nat) : EaFields where
  ix := selOfNat (unused.extractLsb' 2 2).toNat
  indirect := unused.getLsbD 1
  addr := 16 * (unused.getLsbD 0).toNat + code

/-- Format IO: `IR[7:5]` unused, over the device id (R306, R312). -/
def EaFields.ofIO (unused : BitVec 3) (devid : Nat) : EaFields where
  ix := selOfNat (unused.extractLsb' 1 2).toNat
  indirect := unused.getLsbD 0
  addr := devid

/-- Format H: `IR[9:0]` unused (R307, R312). -/
def EaFields.ofH (unused : BitVec 10) : EaFields where
  ix := selOfNat (unused.extractLsb' 6 2).toNat
  indirect := unused.getLsbD 5
  addr := (unused.extractLsb' 0 5).toNat

/-- The fields LDX and STX give the resolver: under `LdxStxIndexed = false`, IX is taken as 0
(R312, R404). -/
def EaFields.ofIndexOp (p : Config.Params) (ix : Fin 4) (ind : Bool) (addr : Nat) : EaFields where
  ix := if p.ldxStxIndexed then ix else 0
  indirect := ind
  addr := addr

/-- Steps 1 and 2 of the resolver: the zero-extended address, indexed modulo 2^16 when an index
register is selected (R310). -/
def indexedAddress (f : EaFields) (s : State) : Word :=
  match xSlot f.ix with
  | none => BitVec.ofNat 16 f.addr
  | some k => BitVec.ofNat 16 f.addr + s.readX k

/-- `ResolveEA` (R310): with I = 1 the pre-indirection address goes to slot 6, and the word it addresses
is the effective address; one level only. -/
def resolve (f : EaFields) (s : State) : Res Word :=
  if f.indirect then
    memRead (s16 (indexedAddress f s)) (memWrite 6 (indexedAddress f s) s)
  else .ok (indexedAddress f s) s

/-- `Target(ea)`: the check of a taken transfer (R460). -/
def target (ea : Word) (s : State) : Res PcWord :=
  if inMemory (s16 ea) then .ok (ea.setWidth 12) s else raise .illegalAddress s

/-- A taken transfer to `ea` (R460). -/
def jumpTo (ea : Word) (s : State) : Res Ending :=
  (target ea s).bind fun t s => .ok (.jump t) s

/-- `FRsel()`: 0 and 1 select FR0 and FR1, 2 and 3 raise IllegalOpcode (R601). -/
def frSel (sel : Fin 4) (s : State) : Res (Fin 2) :=
  match sel with
  | 0 => .ok 0 s
  | 1 => .ok 1 s
  | 2 => raise .illegalOpcode s
  | 3 => raise .illegalOpcode s

/-- An immediate, zero-extended (R309). -/
def immediate (n : Nat) : Word := BitVec.ofNat 16 n

/-- 16-bit addition: exact on the signed readings, then wrapped (R444). -/
def addWord (a b : Word) : Word := wrap16 (s16 a + s16 b)

/-- 16-bit subtraction: exact on the signed readings, then wrapped (R444). -/
def subWord (a b : Word) : Word := wrap16 (s16 a - s16 b)

/-- Memory as the function of the address that `TrapDispatch` takes (R9, R561). -/
def memoryView (s : State) : Fin 2048 → Word := fun a => s.mem.read a.val

/-- One instruction from the resolver on (R350): resolve, run the handler on the effective address,
complete, and let the fault controller run. -/
def runHandler (p : Config.Params) (f : EaFields) (h : Word → State → Res Ending) (s : State) : Report :=
  finish p ((resolve f s).bind h)

end Sys2Proof.Machine
end

