-- ==== Sys2Proof/Machine/Arith.lean ====
section
/-!
DEFINITION. AMR, SMR, AIR, SIR (spec/41_arith.md R440 to R444).
-/

namespace Sys2Proof.Machine

/-- AMR (R440): `GPR[r] <- wrap16(s16(GPR[r]) + s16(m))`, no flag. -/
def handleAmr (r : Fin 4) (ea : Word) (s : State) : Res Ending :=
  (memRead (s16 ea) s).bind fun m s => .ok .next (s.writeGpr r (addWord (s.readGpr r) m))

/-- AMR (R440) under any parameters. -/
def reportAmr (p : Config.Params) (r ix : Fin 4) (ind : Bool) (addr : Nat) (s : State) : Report :=
  runHandler p ⟨ix, ind, addr⟩ (handleAmr r) s

/-- AMR (R440): the meaning `exec` calls. -/
def execAmr (r ix : Fin 4) (ind : Bool) (addr : Nat) (s : State) : Host.Outcome State Fault Refusal :=
  (reportAmr Config.params r ix ind addr s).toHost

/-- SMR (R441): `GPR[r] <- wrap16(s16(GPR[r]) - s16(m))`, no flag. -/
def handleSmr (r : Fin 4) (ea : Word) (s : State) : Res Ending :=
  (memRead (s16 ea) s).bind fun m s => .ok .next (s.writeGpr r (subWord (s.readGpr r) m))

/-- SMR (R441) under any parameters. -/
def reportSmr (p : Config.Params) (r ix : Fin 4) (ind : Bool) (addr : Nat) (s : State) : Report :=
  runHandler p ⟨ix, ind, addr⟩ (handleSmr r) s

/-- SMR (R441): the meaning `exec` calls. -/
def execSmr (r ix : Fin 4) (ind : Bool) (addr : Nat) (s : State) : Host.Outcome State Fault Refusal :=
  (reportSmr Config.params r ix ind addr s).toHost

/-- AIR (R442): `GPR[r] <- wrap16(s16(GPR[r]) + u5(IR[4:0]))`; the immediate is the raw field, not `ea`. -/
def handleAir (r : Fin 4) (immed : Nat) (_ea : Word) (s : State) : Res Ending :=
  .ok .next (s.writeGpr r (addWord (s.readGpr r) (immediate immed)))

/-- AIR (R442) under any parameters. -/
def reportAir (p : Config.Params) (r ix : Fin 4) (ind : Bool) (immed : Nat) (s : State) : Report :=
  runHandler p ⟨ix, ind, immed⟩ (handleAir r immed) s

/-- AIR (R442): the meaning `exec` calls. -/
def execAir (r ix : Fin 4) (ind : Bool) (immed : Nat) (s : State) : Host.Outcome State Fault Refusal :=
  (reportAir Config.params r ix ind immed s).toHost

/-- SIR (R443): `GPR[r] <- wrap16(s16(GPR[r]) - u5(IR[4:0]))`. -/
def handleSir (r : Fin 4) (immed : Nat) (_ea : Word) (s : State) : Res Ending :=
  .ok .next (s.writeGpr r (subWord (s.readGpr r) (immediate immed)))

/-- SIR (R443) under any parameters. -/
def reportSir (p : Config.Params) (r ix : Fin 4) (ind : Bool) (immed : Nat) (s : State) : Report :=
  runHandler p ⟨ix, ind, immed⟩ (handleSir r immed) s

/-- SIR (R443): the meaning `exec` calls. -/
def execSir (r ix : Fin 4) (ind : Bool) (immed : Nat) (s : State) : Host.Outcome State Fault Refusal :=
  (reportSir Config.params r ix ind immed s).toHost

end Sys2Proof.Machine
end

