-- ==== Sys2Proof/Machine/Branch.lean ====
section
/-!
DEFINITION. JZ, JNE, JCC, JMA, JGE, JSR, RFS, SOB (spec/42_branch.md R460 to R469).
-/

namespace Sys2Proof.Machine

/-- The branch pattern (R460): on true, transfer to `ea` after its check; on false `next`, `ea`
unchecked. -/
def branchIf (taken : Bool) (ea : Word) (s : State) : Res Ending :=
  if taken then jumpTo ea s else .ok .next s

/-- JZ (R461): taken when `GPR[r] = 0`. -/
def handleJz (r : Fin 4) (ea : Word) (s : State) : Res Ending :=
  branchIf (decide (s.readGpr r = 0#16)) ea s

/-- JZ (R461) under any parameters. -/
def reportJz (p : Config.Params) (r ix : Fin 4) (ind : Bool) (addr : Nat) (s : State) : Report :=
  runHandler p ⟨ix, ind, addr⟩ (handleJz r) s

/-- JZ (R461): the meaning `exec` calls. -/
def execJz (r ix : Fin 4) (ind : Bool) (addr : Nat) (s : State) : Host.Outcome State Fault Refusal :=
  (reportJz Config.params r ix ind addr s).toHost

/-- JNE (R462): taken when `GPR[r]` is not 0. -/
def handleJne (r : Fin 4) (ea : Word) (s : State) : Res Ending :=
  branchIf (decide (s.readGpr r ≠ 0#16)) ea s

/-- JNE (R462) under any parameters. -/
def reportJne (p : Config.Params) (r ix : Fin 4) (ind : Bool) (addr : Nat) (s : State) : Report :=
  runHandler p ⟨ix, ind, addr⟩ (handleJne r) s

/-- JNE (R462): the meaning `exec` calls. -/
def execJne (r ix : Fin 4) (ind : Bool) (addr : Nat) (s : State) : Host.Outcome State Fault Refusal :=
  (reportJne Config.params r ix ind addr s).toHost

/-- JCC (R463): taken when `CC[cc] = 1`; the target is checked first, then the flag is cleared. -/
def handleJcc (cc : Fin 4) (ea : Word) (s : State) : Res Ending :=
  if flagGet s.cc cc then
    (target ea s).bind fun t s => .ok (.jump t) (s.setCc (ccConsume cc s.cc))
  else .ok .next s

/-- JCC (R463) under any parameters. -/
def reportJcc (p : Config.Params) (cc ix : Fin 4) (ind : Bool) (addr : Nat) (s : State) : Report :=
  runHandler p ⟨ix, ind, addr⟩ (handleJcc cc) s

/-- JCC (R463): the meaning `exec` calls. -/
def execJcc (cc ix : Fin 4) (ind : Bool) (addr : Nat) (s : State) : Host.Outcome State Fault Refusal :=
  (reportJcc Config.params cc ix ind addr s).toHost

/-- JMA (R464): always transfers. -/
def handleJma (ea : Word) (s : State) : Res Ending := jumpTo ea s

/-- JMA (R464) under any parameters. -/
def reportJma (p : Config.Params) (_rx : BitVec 2) (ix : Fin 4) (ind : Bool) (addr : Nat) (s : State) : Report :=
  runHandler p ⟨ix, ind, addr⟩ handleJma s

/-- JMA (R464): the meaning `exec` calls. -/
def execJma (rx : BitVec 2) (ix : Fin 4) (ind : Bool) (addr : Nat) (s : State) : Host.Outcome State Fault Refusal :=
  (reportJma Config.params rx ix ind addr s).toHost

/-- JGE (R465): taken when `s16(GPR[r]) >= 0`. -/
def handleJge (r : Fin 4) (ea : Word) (s : State) : Res Ending :=
  branchIf (decide (0 ≤ s16 (s.readGpr r))) ea s

/-- JGE (R465) under any parameters. -/
def reportJge (p : Config.Params) (r ix : Fin 4) (ind : Bool) (addr : Nat) (s : State) : Report :=
  runHandler p ⟨ix, ind, addr⟩ (handleJge r) s

/-- JGE (R465): the meaning `exec` calls. -/
def execJge (r ix : Fin 4) (ind : Bool) (addr : Nat) (s : State) : Host.Outcome State Fault Refusal :=
  (reportJge Config.params r ix ind addr s).toHost

/-- JSR (R466): the target is checked first; then `GPR[LinkReg] <- PC + 1`, `GPR[ParamReg] <- ea + 1`. -/
def handleJsr (p : Config.Params) (ea : Word) (s : State) : Res Ending :=
  (target ea s).bind fun t s =>
    .ok (.jump t)
      ((s.writeGpr p.linkReg (wrap16 (s.pc.toNat + 1))).writeGpr p.paramReg (wrap16 (ea.toNat + 1)))

/-- JSR (R466) under any parameters. -/
def reportJsr (p : Config.Params) (_rx : BitVec 2) (ix : Fin 4) (ind : Bool) (addr : Nat) (s : State) : Report :=
  runHandler p ⟨ix, ind, addr⟩ (handleJsr p) s

/-- JSR (R466): the meaning `exec` calls. -/
def execJsr (rx : BitVec 2) (ix : Fin 4) (ind : Bool) (addr : Nat) (s : State) : Host.Outcome State Fault Refusal :=
  (reportJsr Config.params rx ix ind addr s).toHost

/-- RFS (R467): `PC <- GPR[LinkReg][11:0]`, unchecked; `GPR[ParamReg] <- zext16(IR[4:0])`. -/
def handleRfs (p : Config.Params) (immed : Nat) (_ea : Word) (s : State) : Res Ending :=
  .ok (.jump ((s.readGpr p.linkReg).setWidth 12)) (s.writeGpr p.paramReg (immediate immed))

/-- RFS (R467) under any parameters. -/
def reportRfs (p : Config.Params) (_rx : BitVec 2) (ix : Fin 4) (ind : Bool) (immed : Nat) (s : State) : Report :=
  runHandler p ⟨ix, ind, immed⟩ (handleRfs p immed) s

/-- RFS (R467): the meaning `exec` calls. -/
def execRfs (rx : BitVec 2) (ix : Fin 4) (ind : Bool) (immed : Nat) (s : State) : Host.Outcome State Fault Refusal :=
  (reportRfs Config.params rx ix ind immed s).toHost

/-- SOB (R468): taken when `s16(GPR[r]) > 0`; nothing is decremented. -/
def handleSob (r : Fin 4) (ea : Word) (s : State) : Res Ending :=
  branchIf (decide (0 < s16 (s.readGpr r))) ea s

/-- SOB (R468) under any parameters. -/
def reportSob (p : Config.Params) (r ix : Fin 4) (ind : Bool) (addr : Nat) (s : State) : Report :=
  runHandler p ⟨ix, ind, addr⟩ (handleSob r) s

/-- SOB (R468): the meaning `exec` calls. -/
def execSob (r ix : Fin 4) (ind : Bool) (addr : Nat) (s : State) : Host.Outcome State Fault Refusal :=
  (reportSob Config.params r ix ind addr s).toHost

end Sys2Proof.Machine
end

