-- ==== Sys2Proof/Machine/Control.lean ====
section
/-!
DEFINITION. HLT and the illegal-opcode handler (spec/49_control.md R650, R651).
-/

namespace Sys2Proof.Machine

/-- HLT (R650). -/
def handleHlt (_ea : Word) (s : State) : Res Ending := .ok .halt s

/-- HLT (R650) under any parameters. -/
def reportHlt (p : Config.Params) (unused : BitVec 10) (s : State) : Report :=
  runHandler p (.ofH unused) handleHlt s

/-- HLT (R650): the meaning `exec` calls. -/
def execHlt (unused : BitVec 10) (s : State) : Host.Outcome State Fault Refusal :=
  (reportHlt Config.params unused s).toHost

/-- The illegal-opcode handler (R651). -/
def handleIllegal (_ea : Word) (s : State) : Res Ending := raise .illegalOpcode s

/-- The step of a word whose opcode is unassigned, from the resolver on (R312, R651). -/
def reportIllegal (p : Config.Params) (w : Word) (s : State) : Report :=
  runHandler p (.ofWord w) handleIllegal s

end Sys2Proof.Machine
end

