-- ==== Sys2Proof/Machine/FloatVector.lean ====
section
/-!
DEFINITION. FADD, FSUB, CNVRT, LDFR, STFR, VADD, VSUB (spec/48_float_vector.md R600 to R609).
-/

namespace Sys2Proof.Machine

/-- FADD (R602): the selector first, then `FR[f] <- FAdd(FR[f], M[ea])`. -/
def handleFadd (p : Config.Params) (fr : Fin 4) (ea : Word) (s : State) : Res Ending :=
  (frSel fr s).bind fun f s =>
    (memRead (s16 ea) s).bind fun m s => .ok .next (s.writeFr f (p.fAdd (s.readFr f) m))

/-- FADD (R602) under any parameters. -/
def reportFadd (p : Config.Params) (fr ix : Fin 4) (ind : Bool) (addr : Nat) (s : State) : Report :=
  runHandler p ⟨ix, ind, addr⟩ (handleFadd p fr) s

/-- FADD (R602): the meaning `exec` calls. -/
def execFadd (fr ix : Fin 4) (ind : Bool) (addr : Nat) (s : State) : Host.Outcome State Fault Refusal :=
  (reportFadd Config.params fr ix ind addr s).toHost

/-- FSUB (R603): the selector first, then `FR[f] <- FSub(FR[f], M[ea])`. -/
def handleFsub (p : Config.Params) (fr : Fin 4) (ea : Word) (s : State) : Res Ending :=
  (frSel fr s).bind fun f s =>
    (memRead (s16 ea) s).bind fun m s => .ok .next (s.writeFr f (p.fSub (s.readFr f) m))

/-- FSUB (R603) under any parameters. -/
def reportFsub (p : Config.Params) (fr ix : Fin 4) (ind : Bool) (addr : Nat) (s : State) : Report :=
  runHandler p ⟨ix, ind, addr⟩ (handleFsub p fr) s

/-- FSUB (R603): the meaning `exec` calls. -/
def execFsub (fr ix : Fin 4) (ind : Bool) (addr : Nat) (s : State) : Host.Outcome State Fault Refusal :=
  (reportFsub Config.params fr ix ind addr s).toHost

/-- CNVRT's effect once its operands are known (R604): F = 0 converts the float `x` to an integer in
GPR[r], any other F the integer `n` to a float in FR0. -/
def convert (p : Config.Params) (r : Fin 4) (x n : Word) (s : State) : State :=
  if s.readGpr r = 0#16 then s.writeGpr r (p.fToInt x) else s.writeFr 0 (p.intToF n)

/-- CNVRT (R604): under REGISTER the operands are FR0 and GPR[r]; under MEMORY both are the word at `ea`. -/
def handleCnvrt (p : Config.Params) (r : Fin 4) (ea : Word) (s : State) : Res Ending :=
  match p.cnvrtSource with
  | .register => .ok .next (convert p r (s.readFr 0) (s.readGpr r) s)
  | .memory => (memRead (s16 ea) s).bind fun m s => .ok .next (convert p r m m s)

/-- CNVRT (R604) under any parameters. -/
def reportCnvrt (p : Config.Params) (r ix : Fin 4) (ind : Bool) (addr : Nat) (s : State) : Report :=
  runHandler p ⟨ix, ind, addr⟩ (handleCnvrt p r) s

/-- CNVRT (R604): the meaning `exec` calls. -/
def execCnvrt (r ix : Fin 4) (ind : Bool) (addr : Nat) (s : State) : Host.Outcome State Fault Refusal :=
  (reportCnvrt Config.params r ix ind addr s).toHost

/-- LDFR (R605): both words are read before either register is written; fx = 1 swaps them. -/
def handleLdfr (fx : Fin 4) (ea : Word) (s : State) : Res Ending :=
  (frSel fx s).bind fun f s =>
    (memRead (s16 ea) s).bind fun w0 s =>
      (memRead (s16 ea + 1) s).bind fun w1 s =>
        .ok .next
          (if f = 0 then (s.writeFr 0 w0).writeFr 1 w1 else (s.writeFr 1 w0).writeFr 0 w1)

/-- LDFR (R605) under any parameters. -/
def reportLdfr (p : Config.Params) (fx ix : Fin 4) (ind : Bool) (addr : Nat) (s : State) : Report :=
  runHandler p ⟨ix, ind, addr⟩ (handleLdfr fx) s

/-- LDFR (R605): the meaning `exec` calls. -/
def execLdfr (fx ix : Fin 4) (ind : Bool) (addr : Nat) (s : State) : Host.Outcome State Fault Refusal :=
  (reportLdfr Config.params fx ix ind addr s).toHost

/-- STFR (R606): fx = 1 swaps the two words; a fault on the second write leaves the first done. -/
def handleStfr (fx : Fin 4) (ea : Word) (s : State) : Res Ending :=
  (frSel fx s).bind fun f s =>
    let a := if f = 0 then s.readFr 0 else s.readFr 1
    let b := if f = 0 then s.readFr 1 else s.readFr 0
    (storeWrite (s16 ea) a s).bind fun _ s =>
      (storeWrite (s16 ea + 1) b s).bind fun _ s => .ok .next s

/-- STFR (R606) under any parameters. -/
def reportStfr (p : Config.Params) (fx ix : Fin 4) (ind : Bool) (addr : Nat) (s : State) : Report :=
  runHandler p ⟨ix, ind, addr⟩ (handleStfr fx) s

/-- STFR (R606): the meaning `exec` calls. -/
def execStfr (fx ix : Fin 4) (ind : Bool) (addr : Nat) (s : State) : Host.Outcome State Fault Refusal :=
  (reportStfr Config.params fx ix ind addr s).toHost

/-- The lanes `i`, `i+1`, … of a vector instruction, `n` of them (R607, R609): lane `i` reads `a` at
`A + i`, then `b` at `B + i`, and stores `op a b` at `A + i`. -/
def vectorLanes (op : Word → Word → Word) (A B : Int) : Nat → Nat → State → Res Unit
  | 0, _, s => .ok () s
  | n + 1, i, s =>
    (memRead (A + i) s).bind fun a s =>
      (memRead (B + i) s).bind fun b s =>
        (storeWrite (A + i) (op a b) s).bind fun _ s => vectorLanes op A B n (i + 1) s

/-- A vector instruction (R607 to R609): the selector, the count `FCount(FR[f])`, the two base words at
`ea` and `ea + 1`, then the lanes; none when the count is not positive. -/
def handleVector (p : Config.Params) (op : Word → Word → Word) (fr : Fin 4) (ea : Word) (s : State) :
    Res Ending :=
  (frSel fr s).bind fun f s =>
    (memRead (s16 ea) s).bind fun a s =>
      (memRead (s16 ea + 1) s).bind fun b s =>
        (vectorLanes op (s16 a) (s16 b) (p.fCount (s.readFr f)).toNat 0 s).bind fun _ s => .ok .next s

/-- VADD (R607) under any parameters. -/
def reportVadd (p : Config.Params) (fr ix : Fin 4) (ind : Bool) (addr : Nat) (s : State) : Report :=
  runHandler p ⟨ix, ind, addr⟩ (handleVector p addWord fr) s

/-- VADD (R607): the meaning `exec` calls. -/
def execVadd (fr ix : Fin 4) (ind : Bool) (addr : Nat) (s : State) : Host.Outcome State Fault Refusal :=
  (reportVadd Config.params fr ix ind addr s).toHost

/-- VSUB (R608) under any parameters. -/
def reportVsub (p : Config.Params) (fr ix : Fin 4) (ind : Bool) (addr : Nat) (s : State) : Report :=
  runHandler p ⟨ix, ind, addr⟩ (handleVector p subWord fr) s

/-- VSUB (R608): the meaning `exec` calls. -/
def execVsub (fr ix : Fin 4) (ind : Bool) (addr : Nat) (s : State) : Host.Outcome State Fault Refusal :=
  (reportVsub Config.params fr ix ind addr s).toHost

end Sys2Proof.Machine
end

