-- ==== Sys2Proof/Machine/Io.lean ====
section
/-!
DEFINITION. The device calls and IN, OUT, CHK (spec/47_io.md R570 to R574, spec/70_reset_and_hazards.md R811).
-/

namespace Sys2Proof.Machine

/-- `KbdStatus()` (R570): its reply, `none` being `Fail`; the devices do not change (R811; log entry 5). -/
def kbdStatus (d : Devices) : Option Bool := d.kbdStatusDraws.headD (Config.freeKbdStatus d.calls)

/-- `KbdRead()` (R570): its reply, and the devices after it (R811; log entry 5). -/
def kbdRead (d : Devices) : Option Word × Devices :=
  (d.kbdReadDraws.headD (Config.freeKbdRead d.calls),
    { d with
      kbdReadDraws := d.kbdReadDraws.tail
      kbdStatusDraws := d.kbdStatusDraws.tail
      calls := d.calls + 1 })

/-- `PrtStatus()` (R570): its reply; the devices do not change (R811; log entry 5). -/
def prtStatus (d : Devices) : Option Bool := d.prtStatusDraws.headD (Config.freePrtStatus d.calls)

/-- `PrtWrite(b)` (R570): its reply, and the devices after it; when it does not fail, `b` is printed
(R811; log entry 5). -/
def prtWrite (b : Byte) (d : Devices) : Option Unit × Devices :=
  let reply := d.prtWriteDraws.headD (Config.freePrtWrite d.calls)
  (reply,
    { d with
      prtWriteDraws := d.prtWriteDraws.tail
      prtStatusDraws := d.prtStatusDraws.tail
      calls := d.calls + 1
      printed := if reply.isSome then d.printed ++ [b] else d.printed })

/-- How the handler of an I/O instruction ends: completed with `next`, or a device call failed (R352,
R570). -/
inductive IoEnd
  /-- Completed. -/
  | next (s : State)
  /-- The call failed; the rest of the instruction is not done. -/
  | failed (call : DeviceCall) (s : State)
  deriving DecidableEq, Repr

/-- The end of an I/O handler as a report (R350, R352, R354): the fault controller does not run on
HostError. -/
def finishIo (p : Config.Params) : IoEnd → Report
  | .next s => finish p (.ok .next s)
  | .failed c s => .hostError c s

/-- One I/O instruction from the resolver on (R350): a fault of the resolver's indirect read comes before
any device call (R703). -/
def runIo (p : Config.Params) (f : EaFields) (h : State → IoEnd) (s : State) : Report :=
  match resolve f s with
  | .ok _ s1 => finishIo p (h s1)
  | .raised k s1 => finish p (.raised k s1)

/-- A status bit, zero-extended (R574). -/
def statusWord (b : Bool) : Word := (BitVec.ofBool b).setWidth 16

/-- IN (R572): device 0 is the keyboard; any other id loads 0. -/
def handleInp (r : Fin 4) (devid : Nat) (s : State) : IoEnd :=
  if devid = 0 then
    match kbdRead s.dev with
    | (some v, d) => .next ((s.setDev d).writeGpr r v)
    | (none, d) => .failed .kbdRead (s.setDev d)
  else .next (s.writeGpr r 0#16)

/-- IN (R572) under any parameters. -/
def reportInp (p : Config.Params) (r : Fin 4) (unused : BitVec 3) (devid : Nat) (s : State) : Report :=
  runIo p (.ofIO unused devid) (handleInp r devid) s

/-- IN (R572): the meaning `exec` calls. -/
def execInp (r : Fin 4) (unused : BitVec 3) (devid : Nat) (s : State) : Host.Outcome State Fault Refusal :=
  (reportInp Config.params r unused devid s).toHost

/-- OUT (R573): device 1 is the printer and gets GPR[r][7:0]; any other id has no effect. -/
def handleOut (r : Fin 4) (devid : Nat) (s : State) : IoEnd :=
  if devid = 1 then
    match prtWrite ((s.readGpr r).setWidth 8) s.dev with
    | (some _, d) => .next (s.setDev d)
    | (none, d) => .failed .prtWrite (s.setDev d)
  else .next s

/-- OUT (R573) under any parameters. -/
def reportOut (p : Config.Params) (r : Fin 4) (unused : BitVec 3) (devid : Nat) (s : State) : Report :=
  runIo p (.ofIO unused devid) (handleOut r devid) s

/-- OUT (R573): the meaning `exec` calls. -/
def execOut (r : Fin 4) (unused : BitVec 3) (devid : Nat) (s : State) : Host.Outcome State Fault Refusal :=
  (reportOut Config.params r unused devid s).toHost

/-- CHK (R574): the status of device 0 or 1; any other id loads 0. -/
def handleChk (r : Fin 4) (devid : Nat) (s : State) : IoEnd :=
  if devid = 0 then
    match kbdStatus s.dev with
    | some b => .next (s.writeGpr r (statusWord b))
    | none => .failed .kbdStatus s
  else if devid = 1 then
    match prtStatus s.dev with
    | some b => .next (s.writeGpr r (statusWord b))
    | none => .failed .prtStatus s
  else .next (s.writeGpr r 0#16)

/-- CHK (R574) under any parameters. -/
def reportChk (p : Config.Params) (r : Fin 4) (unused : BitVec 3) (devid : Nat) (s : State) : Report :=
  runIo p (.ofIO unused devid) (handleChk r devid) s

/-- CHK (R574): the meaning `exec` calls. -/
def execChk (r : Fin 4) (unused : BitVec 3) (devid : Nat) (s : State) : Host.Outcome State Fault Refusal :=
  (reportChk Config.params r unused devid s).toHost

end Sys2Proof.Machine
end

