-- ==== Sys2Proof/Machine/LoadStore.lean ====
section
/-!
DEFINITION. LDR, STR, LDA, LDX, STX (spec/40_load_store.md R400 to R405).
-/

namespace Sys2Proof.Machine

/-- LDR (R401): `GPR[r] <- MemRead(s16(ea), 1)`. -/
def handleLdr (r : Fin 4) (ea : Word) (s : State) : Res Ending :=
  (memRead (s16 ea) s).bind fun v s => .ok .next (s.writeGpr r v)

/-- LDR (R401) under any parameters. -/
def reportLdr (p : Config.Params) (r ix : Fin 4) (ind : Bool) (addr : Nat) (s : State) : Report :=
  runHandler p ⟨ix, ind, addr⟩ (handleLdr r) s

/-- LDR (R401): the meaning `exec` calls. -/
def execLdr (r ix : Fin 4) (ind : Bool) (addr : Nat) (s : State) : Host.Outcome State Fault Refusal :=
  (reportLdr Config.params r ix ind addr s).toHost

/-- STR (R402): `StoreWrite(s16(ea), GPR[r])`. -/
def handleStr (r : Fin 4) (ea : Word) (s : State) : Res Ending :=
  (storeWrite (s16 ea) (s.readGpr r) s).bind fun _ s => .ok .next s

/-- STR (R402) under any parameters. -/
def reportStr (p : Config.Params) (r ix : Fin 4) (ind : Bool) (addr : Nat) (s : State) : Report :=
  runHandler p ⟨ix, ind, addr⟩ (handleStr r) s

/-- STR (R402): the meaning `exec` calls. -/
def execStr (r ix : Fin 4) (ind : Bool) (addr : Nat) (s : State) : Host.Outcome State Fault Refusal :=
  (reportStr Config.params r ix ind addr s).toHost

/-- LDA (R403): `GPR[r] <- ea`, unchecked. -/
def handleLda (r : Fin 4) (ea : Word) (s : State) : Res Ending :=
  .ok .next (s.writeGpr r ea)

/-- LDA (R403) under any parameters. -/
def reportLda (p : Config.Params) (r ix : Fin 4) (ind : Bool) (addr : Nat) (s : State) : Report :=
  runHandler p ⟨ix, ind, addr⟩ (handleLda r) s

/-- LDA (R403): the meaning `exec` calls. -/
def execLda (r ix : Fin 4) (ind : Bool) (addr : Nat) (s : State) : Host.Outcome State Fault Refusal :=
  (reportLda Config.params r ix ind addr s).toHost

/-- LDX (R404): `X[ix] <- MemRead(s16(ea), 1)`; selector 0 does nothing. -/
def handleLdx (ix : Fin 4) (ea : Word) (s : State) : Res Ending :=
  match xSlot ix with
  | none => .ok .next s
  | some k => (memRead (s16 ea) s).bind fun v s => .ok .next (s.writeX k v)

/-- LDX (R404) under any parameters. -/
def reportLdx (p : Config.Params) (_rx : BitVec 2) (ix : Fin 4) (ind : Bool) (addr : Nat) (s : State) : Report :=
  runHandler p (.ofIndexOp p ix ind addr) (handleLdx ix) s

/-- LDX (R404): the meaning `exec` calls. -/
def execLdx (rx : BitVec 2) (ix : Fin 4) (ind : Bool) (addr : Nat) (s : State) : Host.Outcome State Fault Refusal :=
  (reportLdx Config.params rx ix ind addr s).toHost

/-- STX (R405): `StoreWrite(s16(ea), X[ix])`; selector 0 does nothing. -/
def handleStx (ix : Fin 4) (ea : Word) (s : State) : Res Ending :=
  match xSlot ix with
  | none => .ok .next s
  | some k => (storeWrite (s16 ea) (s.readX k) s).bind fun _ s => .ok .next s

/-- STX (R405) under any parameters. -/
def reportStx (p : Config.Params) (_rx : BitVec 2) (ix : Fin 4) (ind : Bool) (addr : Nat) (s : State) : Report :=
  runHandler p (.ofIndexOp p ix ind addr) (handleStx ix) s

/-- STX (R405): the meaning `exec` calls. -/
def execStx (rx : BitVec 2) (ix : Fin 4) (ind : Bool) (addr : Nat) (s : State) : Host.Outcome State Fault Refusal :=
  (reportStx Config.params rx ix ind addr s).toHost

end Sys2Proof.Machine
end

