-- ==== Sys2Proof/Machine/Logic.lean ====
section
/-!
DEFINITION. TRR, AND, ORR, NOT (spec/44_logic.md R520 to R523).
-/

namespace Sys2Proof.Machine

/-- TRR (R520): CC[3] from the equality of two registers. -/
def handleTrr (p : Config.Params) (rx ry : Fin 4) (_ea : Word) (s : State) : Res Ending :=
  .ok .next (s.setCc (ccCompare p.trrClearsOnNe (s.readGpr rx) (s.readGpr ry) s.cc))

/-- TRR (R520) under any parameters. -/
def reportTrr (p : Config.Params) (rx ry : Fin 4) (unused : BitVec 6) (s : State) : Report :=
  runHandler p (.ofRR ry unused) (handleTrr p rx ry) s

/-- TRR (R520): the meaning `exec` calls. -/
def execTrr (rx ry : Fin 4) (unused : BitVec 6) (s : State) : Host.Outcome State Fault Refusal :=
  (reportTrr Config.params rx ry unused s).toHost

/-- AND (R521): `GPR[rx] <- GPR[rx] & GPR[ry]`. -/
def handleAnd (rx ry : Fin 4) (_ea : Word) (s : State) : Res Ending :=
  .ok .next (s.writeGpr rx (s.readGpr rx &&& s.readGpr ry))

/-- AND (R521) under any parameters. -/
def reportAnd (p : Config.Params) (rx ry : Fin 4) (unused : BitVec 6) (s : State) : Report :=
  runHandler p (.ofRR ry unused) (handleAnd rx ry) s

/-- AND (R521): the meaning `exec` calls. -/
def execAnd (rx ry : Fin 4) (unused : BitVec 6) (s : State) : Host.Outcome State Fault Refusal :=
  (reportAnd Config.params rx ry unused s).toHost

/-- ORR (R522): `GPR[rx] <- GPR[rx] | GPR[ry]`. -/
def handleOrr (rx ry : Fin 4) (_ea : Word) (s : State) : Res Ending :=
  .ok .next (s.writeGpr rx (s.readGpr rx ||| s.readGpr ry))

/-- ORR (R522) under any parameters. -/
def reportOrr (p : Config.Params) (rx ry : Fin 4) (unused : BitVec 6) (s : State) : Report :=
  runHandler p (.ofRR ry unused) (handleOrr rx ry) s

/-- ORR (R522): the meaning `exec` calls. -/
def execOrr (rx ry : Fin 4) (unused : BitVec 6) (s : State) : Host.Outcome State Fault Refusal :=
  (reportOrr Config.params rx ry unused s).toHost

/-- NOT (R523): `GPR[rx] <- ~GPR[rx]`. -/
def handleNot (rx : Fin 4) (_ea : Word) (s : State) : Res Ending :=
  .ok .next (s.writeGpr rx (~~~ s.readGpr rx))

/-- NOT (R523) under any parameters. -/
def reportNot (p : Config.Params) (rx : Fin 4) (unused : BitVec 8) (s : State) : Report :=
  runHandler p (.ofNot unused) (handleNot rx) s

/-- NOT (R523): the meaning `exec` calls. -/
def execNot (rx : Fin 4) (unused : BitVec 8) (s : State) : Host.Outcome State Fault Refusal :=
  (reportNot Config.params rx unused s).toHost

end Sys2Proof.Machine
end

