-- ==== Sys2Proof/Machine/RegisterPair.lean ====
section
/-!
DEFINITION. MLT, DVD (spec/43_register_pair.md R500 to R503).
-/

namespace Sys2Proof.Machine

/-- Both selectors name an even register (R500). -/
def evenPair (rx ry : Fin 4) : Bool := decide ((rx = 0 ∨ rx = 2) ∧ (ry = 0 ∨ ry = 2))

/-- The exact signed product as 32 bits (R501, R503). -/
def product (a b : Word) : BitVec 32 := BitVec.ofInt 32 (s16 a * s16 b)

/-- The quotient, truncated toward zero and wrapped (R502, R503). -/
def quotient (a b : Word) : Word := wrap16 ((s16 a).tdiv (s16 b))

/-- The remainder `a - q*b` of the truncated quotient (R502, R503). -/
def remainder (a b : Word) : Word := wrap16 (s16 a - (s16 a).tdiv (s16 b) * s16 b)

/-- MLT (R500, R501): the low word into GPR[rx+1], the high word into GPR[rx] under `MltHighWord = HIGH`;
odd selectors do nothing. -/
def handleMlt (p : Config.Params) (rx ry : Fin 4) (_ea : Word) (s : State) : Res Ending :=
  if evenPair rx ry then
    let prod := product (s.readGpr rx) (s.readGpr ry)
    let s1 := s.writeGpr (rx + 1) (prod.extractLsb' 0 16)
    .ok .next
      (match p.mltHighWord with
        | .high => s1.writeGpr rx (prod.extractLsb' 16 16)
        | .unchanged => s1)
  else .ok .next s

/-- MLT (R501) under any parameters. -/
def reportMlt (p : Config.Params) (rx ry : Fin 4) (unused : BitVec 6) (s : State) : Report :=
  runHandler p (.ofRR ry unused) (handleMlt p rx ry) s

/-- MLT (R501): the meaning `exec` calls. -/
def execMlt (rx ry : Fin 4) (unused : BitVec 6) (s : State) : Host.Outcome State Fault Refusal :=
  (reportMlt Config.params rx ry unused s).toHost

/-- DVD (R500, R502): the quotient into GPR[rx], the remainder into GPR[rx+1]; a zero divisor sets CC[2]
and writes no register; odd selectors do nothing. -/
def handleDvd (rx ry : Fin 4) (_ea : Word) (s : State) : Res Ending :=
  if evenPair rx ry then
    let a := s.readGpr rx
    let b := s.readGpr ry
    if b = 0#16 then .ok .next (s.setCc (ccDivideByZero s.cc))
    else .ok .next ((s.writeGpr rx (quotient a b)).writeGpr (rx + 1) (remainder a b))
  else .ok .next s

/-- DVD (R502) under any parameters. -/
def reportDvd (p : Config.Params) (rx ry : Fin 4) (unused : BitVec 6) (s : State) : Report :=
  runHandler p (.ofRR ry unused) (handleDvd rx ry) s

/-- DVD (R502): the meaning `exec` calls. -/
def execDvd (rx ry : Fin 4) (unused : BitVec 6) (s : State) : Host.Outcome State Fault Refusal :=
  (reportDvd Config.params rx ry unused s).toHost

end Sys2Proof.Machine
end

