-- ==== Sys2Proof/Machine/Shift.lean ====
section
/-!
DEFINITION. SRC, RRC (spec/45_shift_rotate.md R540 to R542).
-/

namespace Sys2Proof.Machine

/-- The shift of R541: left fills with zeros in either mode; logical right fills with zeros; arithmetic
right with copies of the original bit 15. -/
def shiftWord (al lr : Bool) (v : Word) (c : Nat) : Word :=
  if lr then v <<< c
  else if al then v >>> c
  else v.sshiftRight c

/-- The rotate of R542, its count taken modulo 16; `lr` true is left. -/
def rotateWord (lr : Bool) (v : Word) (c : Nat) : Word :=
  let k := c % 16
  if lr then v <<< k ||| v >>> (16 - k)
  else v >>> k ||| v <<< (16 - k)

/-- SRC (R541). -/
def handleSrc (r : Fin 4) (al lr : Bool) (count : Nat) (_ea : Word) (s : State) : Res Ending :=
  .ok .next (s.writeGpr r (shiftWord al lr (s.readGpr r) count))

/-- SRC (R541) under any parameters. -/
def reportSrc (p : Config.Params) (r : Fin 4) (al lr : Bool) (unused : BitVec 2) (count : Nat) (s : State) : Report :=
  runHandler p (.ofSH al lr unused count) (handleSrc r al lr count) s

/-- SRC (R541): the meaning `exec` calls. -/
def execSrc (r : Fin 4) (al lr : Bool) (unused : BitVec 2) (count : Nat) (s : State) : Host.Outcome State Fault Refusal :=
  (reportSrc Config.params r al lr unused count s).toHost

/-- RRC (R542); A/L is ignored. -/
def handleRrc (r : Fin 4) (lr : Bool) (count : Nat) (_ea : Word) (s : State) : Res Ending :=
  .ok .next (s.writeGpr r (rotateWord lr (s.readGpr r) count))

/-- RRC (R542) under any parameters. -/
def reportRrc (p : Config.Params) (r : Fin 4) (al lr : Bool) (unused : BitVec 2) (count : Nat) (s : State) : Report :=
  runHandler p (.ofSH al lr unused count) (handleRrc r lr count) s

/-- RRC (R542): the meaning `exec` calls. -/
def execRrc (r : Fin 4) (al lr : Bool) (unused : BitVec 2) (count : Nat) (s : State) : Host.Outcome State Fault Refusal :=
  (reportRrc Config.params r al lr unused count s).toHost

end Sys2Proof.Machine
end

