-- ==== Sys2Proof/Machine/Trap.lean ====
section
/-!
DEFINITION. TRAP (spec/46_trap.md R560 to R562).
-/

namespace Sys2Proof.Machine

/-- The two convention writes of a trap: the code to slot 0, PC + 1 to slot 2 (R560). -/
def recordTrap (code : Nat) (s : State) : State :=
  memWrite 2 (wrap16 (s.pc.toNat + 1)) (memWrite 0 (immediate code) s)

/-- TRAP (R560, R561): record the trap, then go on at PC + 1 or where `TrapDispatch` says. -/
def handleTrap (p : Config.Params) (code : Nat) (_ea : Word) (s : State) : Res Ending :=
  let s1 := recordTrap code s
  match p.trapDispatch with
  | none => .ok .next s1
  | some f => .ok (.jump (f (memoryView s1) (BitVec.ofNat 4 code))) s1

/-- TRAP (R560) under any parameters. -/
def reportTrap (p : Config.Params) (unused : BitVec 6) (code : Nat) (s : State) : Report :=
  runHandler p (.ofT unused code) (handleTrap p code) s

/-- TRAP (R560): the meaning `exec` calls. -/
def execTrap (unused : BitVec 6) (code : Nat) (s : State) : Host.Outcome State Fault Refusal :=
  (reportTrap Config.params unused code s).toHost

end Sys2Proof.Machine
end

