-- ==== Sys2Proof/Machine/Dispatch.lean ====
section
/-!
DEFINITION. One arm per instruction: the meaning of a decoded instruction (spec/30_encoding.md R350), from the
resolver to the fault controller, in the state the fetch left.
-/

namespace Sys2Proof.Machine

def exec (i : Instr) (s : State) : Host.Outcome State Fault Refusal :=
  match i with
  | .hlt unused => Sys2Proof.Machine.execHlt unused s
  | .ldr r ix ind addr => Sys2Proof.Machine.execLdr r ix ind addr s
  | .str r ix ind addr => Sys2Proof.Machine.execStr r ix ind addr s
  | .lda r ix ind addr => Sys2Proof.Machine.execLda r ix ind addr s
  | .amr r ix ind addr => Sys2Proof.Machine.execAmr r ix ind addr s
  | .smr r ix ind addr => Sys2Proof.Machine.execSmr r ix ind addr s
  | .air r ix ind immed => Sys2Proof.Machine.execAir r ix ind immed s
  | .sir r ix ind immed => Sys2Proof.Machine.execSir r ix ind immed s
  | .jz r ix ind addr => Sys2Proof.Machine.execJz r ix ind addr s
  | .jne r ix ind addr => Sys2Proof.Machine.execJne r ix ind addr s
  | .jcc cc ix ind addr => Sys2Proof.Machine.execJcc cc ix ind addr s
  | .jma rx ix ind addr => Sys2Proof.Machine.execJma rx ix ind addr s
  | .jsr rx ix ind addr => Sys2Proof.Machine.execJsr rx ix ind addr s
  | .rfs rx ix ind immed => Sys2Proof.Machine.execRfs rx ix ind immed s
  | .sob r ix ind addr => Sys2Proof.Machine.execSob r ix ind addr s
  | .jge r ix ind addr => Sys2Proof.Machine.execJge r ix ind addr s
  | .mlt rx ry unused => Sys2Proof.Machine.execMlt rx ry unused s
  | .dvd rx ry unused => Sys2Proof.Machine.execDvd rx ry unused s
  | .trr rx ry unused => Sys2Proof.Machine.execTrr rx ry unused s
  | .and rx ry unused => Sys2Proof.Machine.execAnd rx ry unused s
  | .orr rx ry unused => Sys2Proof.Machine.execOrr rx ry unused s
  | .not rx unused => Sys2Proof.Machine.execNot rx unused s
  | .trap unused code => Sys2Proof.Machine.execTrap unused code s
  | .src r al lr unused count => Sys2Proof.Machine.execSrc r al lr unused count s
  | .rrc r al lr unused count => Sys2Proof.Machine.execRrc r al lr unused count s
  | .fadd fr ix ind addr => Sys2Proof.Machine.execFadd fr ix ind addr s
  | .fsub fr ix ind addr => Sys2Proof.Machine.execFsub fr ix ind addr s
  | .vadd fr ix ind addr => Sys2Proof.Machine.execVadd fr ix ind addr s
  | .vsub fr ix ind addr => Sys2Proof.Machine.execVsub fr ix ind addr s
  | .cnvrt r ix ind addr => Sys2Proof.Machine.execCnvrt r ix ind addr s
  | .ldx rx ix ind addr => Sys2Proof.Machine.execLdx rx ix ind addr s
  | .stx rx ix ind addr => Sys2Proof.Machine.execStx rx ix ind addr s
  | .ldfr fx ix ind addr => Sys2Proof.Machine.execLdfr fx ix ind addr s
  | .stfr fx ix ind addr => Sys2Proof.Machine.execStfr fx ix ind addr s
  | .inp r unused devid => Sys2Proof.Machine.execInp r unused devid s
  | .out r unused devid => Sys2Proof.Machine.execOut r unused devid s
  | .chk r unused devid => Sys2Proof.Machine.execChk r unused devid s

end Sys2Proof.Machine
end

