-- ==== Sys2Proof/Machine/Report.lean ====
section
/-!
DEFINITION. The whole `Execute` phase under ANY parameters of spec/00_scope.md R9, with the outcome the
step returns (spec/30_encoding.md R350, R354). `exec` of Machine/Dispatch.lean is this one at
`Config.params`, its outcome dropped.
-/

namespace Sys2Proof.Machine

/-- What executing a decoded instruction reports, under parameters `p` (R350, R354). -/
def reportWith (p : Config.Params) (i : Instr) (s : State) : Report :=
  match i with
  | .hlt unused => reportHlt p unused s
  | .ldr r ix ind addr => reportLdr p r ix ind addr s
  | .str r ix ind addr => reportStr p r ix ind addr s
  | .lda r ix ind addr => reportLda p r ix ind addr s
  | .amr r ix ind addr => reportAmr p r ix ind addr s
  | .smr r ix ind addr => reportSmr p r ix ind addr s
  | .air r ix ind immed => reportAir p r ix ind immed s
  | .sir r ix ind immed => reportSir p r ix ind immed s
  | .jz r ix ind addr => reportJz p r ix ind addr s
  | .jne r ix ind addr => reportJne p r ix ind addr s
  | .jcc cc ix ind addr => reportJcc p cc ix ind addr s
  | .jma rx ix ind addr => reportJma p rx ix ind addr s
  | .jsr rx ix ind addr => reportJsr p rx ix ind addr s
  | .rfs rx ix ind immed => reportRfs p rx ix ind immed s
  | .sob r ix ind addr => reportSob p r ix ind addr s
  | .jge r ix ind addr => reportJge p r ix ind addr s
  | .mlt rx ry unused => reportMlt p rx ry unused s
  | .dvd rx ry unused => reportDvd p rx ry unused s
  | .trr rx ry unused => reportTrr p rx ry unused s
  | .and rx ry unused => reportAnd p rx ry unused s
  | .orr rx ry unused => reportOrr p rx ry unused s
  | .not rx unused => reportNot p rx unused s
  | .trap unused code => reportTrap p unused code s
  | .src r al lr unused count => reportSrc p r al lr unused count s
  | .rrc r al lr unused count => reportRrc p r al lr unused count s
  | .fadd fr ix ind addr => reportFadd p fr ix ind addr s
  | .fsub fr ix ind addr => reportFsub p fr ix ind addr s
  | .vadd fr ix ind addr => reportVadd p fr ix ind addr s
  | .vsub fr ix ind addr => reportVsub p fr ix ind addr s
  | .cnvrt r ix ind addr => reportCnvrt p r ix ind addr s
  | .ldx rx ix ind addr => reportLdx p rx ix ind addr s
  | .stx rx ix ind addr => reportStx p rx ix ind addr s
  | .ldfr fx ix ind addr => reportLdfr p fx ix ind addr s
  | .stfr fx ix ind addr => reportStfr p fx ix ind addr s
  | .inp r unused devid => reportInp p r unused devid s
  | .out r unused devid => reportOut p r unused devid s
  | .chk r unused devid => reportChk p r unused devid s

/-- What executing an instruction answers the host, under parameters `p`. -/
def execWith (p : Config.Params) (i : Instr) (s : State) : Host.Outcome State Fault Refusal :=
  (reportWith p i s).toHost

/-- `ExecuteIR()` (R353): the step without its fetch, on the word already in IR. -/
def executeIRWith (p : Config.Params) (s : State) : Report :=
  match decodeWith p.opcodeMap s.ir with
  | .ok i => reportWith p i s
  | .error _ => reportIllegal p s.ir s

/-- `Step()` (R350): fetch, then execute IR; a fetch that raises goes straight to completion and the fault
controller (R351). -/
def stepWith (p : Config.Params) (s : State) : Report :=
  match fetch s with
  | .ok _ s1 => executeIRWith p s1
  | .raised k s1 => finish p (.raised k s1)

end Sys2Proof.Machine
end

