-- ==== Sys2Proof/Machine/Step.lean ====
section
/-!
DEFINITION. One step: fetch, decode, execute, fault control (spec/30_encoding.md R350), every part of which is
defined elsewhere; and the state in which a given word is the next instruction.
-/

namespace Sys2Proof.Machine

/-- `Step()` at the parameters `Config.params` (R350): the host sees the state it reaches; a word no opcode
is assigned to runs the illegal-opcode handler (R320, R651). -/
def step (s : State) : Host.Outcome State Fault Refusal :=
  match fetch s with
  | .ok _ s1 =>
    match decode s1.ir with
    | .ok i => exec i s1
    | .error _ => (reportIllegal Config.params s1.ir s1).toHost
  | .raised k s1 => (finish Config.params (.raised k s1)).toHost

/-- `s` with the instruction whose bits are `w` stored where the next step fetches: at `M[PC]`. A PC of 2048
or more addresses no memory (R106), so its bit 11 is cleared; any other PC stands. It stands for the host's
Load and SetPC (R801, R802; log entry 8). -/
def State.withFetchWord (s : State) (nbits w : Nat) : State :=
  let pc := s.pc.toNat % 2048
  (s.setPc (BitVec.ofNat 12 pc)).setMem (s.mem.write pc (BitVec.ofNat 16 (w % 2 ^ nbits)))

end Sys2Proof.Machine
end

