-- ==== Sys2Proof/Machine/HostOps.lean ====
section
/-!
DEFINITION. The host's operations between steps (spec/70_reset_and_hazards.md R800 to R802, R810 to R812).
`Step` and `ExecuteIR` are `stepWith` and `executeIRWith` of Machine/Report.lean; read access is the
fields of State.
-/

namespace Sys2Proof.Machine

/-- `Reset()`: every piece of architectural state at its reset value, the devices left as they are
(R800, R811). -/
def hostReset (s : State) : State := State.reset.setDev s.dev

/-- One pair of `Load`: stored verbatim, no protection; a location outside 0..2047 is refused and nothing
changes (R802, D46). -/
def loadPair (location : Int) (value : Word) (s : State) : Host.Outcome State Fault Refusal :=
  if inMemory location then .next (s.setMem (s.mem.write location.toNat value))
  else .refused (.loadLocation location)

/-- `Load(pairs)`: the pairs in list order; the second component lists the locations refused (R802). -/
def hostLoad : List (Int × Word) → State → State × List Int
  | [], s => (s, [])
  | (location, value) :: rest, s =>
    match loadPair location value s with
    | .next s1 => hostLoad rest s1
    | .fault _ => hostLoad rest s
    | .refused _ => ((hostLoad rest s).1, location :: (hostLoad rest s).2)

/-- `SetPC(a)`: `PC <- a[11:0]` (R810). -/
def hostSetPc (a : Word) (s : State) : State := s.setPc (a.setWidth 12)

/-- The registers `SetReg` names (R810). -/
inductive HostReg
  | gpr (r : Fin 4)
  | x (k : Fin 3)
  | fr (f : Fin 2)
  deriving DecidableEq, Repr

/-- `SetReg(r, v)` (R810). -/
def hostSetReg (r : HostReg) (v : Word) (s : State) : State :=
  match r with
  | .gpr r => s.writeGpr r v
  | .x k => s.writeX k v
  | .fr f => s.writeFr f v

/-- `SetCC(i, b)` (R810). -/
def hostSetCc (i : Fin 4) (b : Bool) (s : State) : State :=
  s.setCc (if b then flagSet s.cc i else flagClear s.cc i)

/-- `LoadIR(w)` (R108, R810). -/
def hostLoadIr (w : Word) (s : State) : State := s.setIr w

/-- How a run stands after some number of steps (R812). -/
inductive RunEnd
  /-- A step executed HLT: the only successful end. -/
  | halted (s : State)
  /-- A device call failed: never a successful end. -/
  | hostError (call : DeviceCall) (s : State)
  /-- Neither yet: `Run` has no step limit, so a hang never leaves this case. -/
  | running (s : State)
  deriving DecidableEq, Repr

/-- The state a run stands in. -/
def RunEnd.state : RunEnd → State
  | .halted s => s
  | .hostError _ s => s
  | .running s => s

/-- `Step()` repeated while the outcome is neither `Halt` nor `HostError` (R810), at most once for each entry
of `env`: that entry is what the environment does to the devices before the step (R811). -/
def runSteps (p : Config.Params) : List (Devices → Devices) → State → RunEnd
  | [], s => .running s
  | e :: env, s =>
    match stepWith p (s.setDev (e s.dev)) with
    | .done .halt s1 => .halted s1
    | .done .ok s1 => runSteps p env s1
    | .done (.faulted _) s1 => runSteps p env s1
    | .hostError c s1 => .hostError c s1

/-- `Run()`: `Halted <- 0`, then steps (R113, R810); the length of `env` bounds how far the model looks
(log entry 12). -/
def hostRun (p : Config.Params) (env : List (Devices → Devices)) (s : State) : RunEnd :=
  runSteps p env (s.setHalted false)

end Sys2Proof.Machine
end

