-- ==== Sys2Proof/Safety.lean ====
section
/-!
DEFINITION. The vocabulary of the claims: the invariant every step keeps, agreement of two states on all
that a claim may rely on, what the spec says the effective address and a handled fault are, written
again from spec/30_encoding.md R310 and spec/60_exceptions.md R701, R710 and not from the model's operations, and
which instructions touch what.
-/

namespace Sys2Proof.Safety

open Sys2Proof.Machine

/-- What holds between steps: memory in its canonical form, and MFR = 0 (R355, R711). -/
structure Inv (s : State) : Prop where
  mem_wf : s.mem.wf = true
  mfr_zero : s.mfr = 0#4

/-- Two states agree on everything but MAR and MBR, on whose values no claim may rely (R109, I17). -/
structure AgreesWith (t u : State) : Prop where
  gpr : t.gpr = u.gpr
  x : t.x = u.x
  fr : t.fr = u.fr
  pc : t.pc = u.pc
  ir : t.ir = u.ir
  cc : t.cc = u.cc
  mfr : t.mfr = u.mfr
  mem : t.mem = u.mem
  halted : t.halted = u.halted
  dev : t.dev = u.dev

/-- `exec i s` answers a next state, and that state is `u` up to MAR and MBR. -/
def Reaches (i : Instr) (s u : State) : Prop :=
  ∃ t, exec i s = .next t ∧ AgreesWith t u

/-- Under parameters `p`, executing `i` reports the outcome `o` and the state `u` up to MAR and MBR. -/
def ReportsWith (p : Config.Params) (i : Instr) (s : State) (o : StepOutcome) (u : State) : Prop :=
  ∃ t, reportWith p i s = .done o t ∧ AgreesWith t u

/-- A word that, read as a signed number, is an address of memory (R200, R206). -/
def Addressable (ea : Word) : Prop := 0 ≤ ea.toInt ∧ ea.toInt ≤ 2047

/-- The pre-indirection effective address: the zero-extended displacement, plus the selected index
register modulo 2^16 (R310 steps 1 and 2). -/
def preAddress (f : EaFields) (s : State) : Word :=
  match f.ix with
  | 0 => BitVec.ofNat 16 f.addr
  | 1 => BitVec.ofNat 16 f.addr + s.x[0]
  | 2 => BitVec.ofNat 16 f.addr + s.x[1]
  | 3 => BitVec.ofNat 16 f.addr + s.x[2]

/-- The resolver raises nothing: no indirection, or the pointer word exists (R310 step 3). -/
def PointerReadable (f : EaFields) (s : State) : Prop :=
  f.indirect = true → Addressable (preAddress f s)

/-- The state the resolver leaves, MAR and MBR apart: with I = 1 the pre-indirection address stands in the
scratch slot 6 (R310 step 3). -/
def scratched (f : EaFields) (s : State) : State :=
  if f.indirect then { s with mem := s.mem.write 6 (preAddress f s) } else s

/-- The effective address: with I = 1 the word at the pre-indirection address, after the scratch slot is
written (R310, R311). -/
def effectiveAddress (f : EaFields) (s : State) : Word :=
  if f.indirect then (scratched f s).mem.read (preAddress f s).toNat else preAddress f s

/-- The packed cause code a fault leaves in `M[1]` (R701). -/
def causeCode : FaultKind → Word
  | .illegalAddress => 8
  | .illegalOpcode => 4
  | .protectionViolation => 1

/-- Where control goes after a fault met with the program counter at `pc` (R712). -/
def resumePc (p : Config.Params) (pc : PcWord) : FaultKind → PcWord
  | .illegalAddress => p.faultHandlerAddr
  | .illegalOpcode => pc + 1#12
  | .protectionViolation => pc + 1#12

/-- The state after a fault of kind `k` met in state `s` has been handled: `M[1]` the cause, then `M[4]` the
resume address, PC there, MFR = 0 (R701, R710, R712). -/
def faulted (p : Config.Params) (k : FaultKind) (s : State) : State :=
  { s with
    pc := resumePc p s.pc k
    mfr := 0#4
    mem := (s.mem.write 1 (causeCode k)).write 4 ((resumePc p s.pc k).setWidth 16) }

/-- The state after a store instruction stores `v` at `ea` in state `s` and ends: the word stored and PC
advanced; a reserved slot or a missing address is not written and the fault is handled (R208, R402). -/
def stored (p : Config.Params) (ea v : Word) (s : State) : State :=
  if 0 ≤ ea.toInt ∧ ea.toInt ≤ 9 then faulted p .protectionViolation s
  else if 10 ≤ ea.toInt ∧ ea.toInt ≤ 2047 then { s with mem := s.mem.write ea.toNat v, pc := s.pc + 1#12 }
  else faulted p .illegalAddress s

/-- The state after a taken transfer to `ea`, whose other effect made `u` of `s`: control at `ea`, or the
fault handled with nothing of the instruction done (R460). -/
def transferred (p : Config.Params) (ea : Word) (s u : State) : State :=
  if 0 ≤ ea.toInt ∧ ea.toInt ≤ 2047 then { u with pc := ea.setWidth 12 } else faulted p .illegalAddress s

/-- The resolver's fields of an instruction (R312). -/
def fieldsOf (p : Config.Params) : Instr → EaFields
  | .ldr _ ix ind a | .str _ ix ind a | .lda _ ix ind a | .amr _ ix ind a | .smr _ ix ind a
  | .air _ ix ind a | .sir _ ix ind a | .jz _ ix ind a | .jne _ ix ind a | .jcc _ ix ind a
  | .jma _ ix ind a | .jsr _ ix ind a | .rfs _ ix ind a | .sob _ ix ind a | .jge _ ix ind a
  | .fadd _ ix ind a | .fsub _ ix ind a | .vadd _ ix ind a | .vsub _ ix ind a | .cnvrt _ ix ind a
  | .ldfr _ ix ind a | .stfr _ ix ind a => ⟨ix, ind, a⟩
  | .ldx _ ix ind a | .stx _ ix ind a => .ofIndexOp p ix ind a
  | .mlt _ ry u | .dvd _ ry u | .trr _ ry u | .and _ ry u | .orr _ ry u => .ofRR ry u
  | .not _ u => .ofNot u
  | .trap u c => .ofT u c
  | .src _ al lr u c | .rrc _ al lr u c => .ofSH al lr u c
  | .inp _ u d | .out _ u d | .chk _ u d => .ofIO u d
  | .hlt u => .ofH u

/-- What a statement about an instruction asks of the state it runs in: MFR = 0, as between any two steps
(R355), and the pointer word of an indirect access exists. -/
structure Ready (i : Instr) (s : State) : Prop where
  mfr_zero : s.mfr = 0#4
  pointer : PointerReadable (fieldsOf Config.params i) s

/-- The effective address of an instruction (R310, R312). -/
def eaOf (i : Instr) (s : State) : Word := effectiveAddress (fieldsOf Config.params i) s

/-- The state an instruction's handler starts from, MAR and MBR apart (R310, R312). -/
def afterResolve (i : Instr) (s : State) : State := scratched (fieldsOf Config.params i) s

/-- Lane `k` of a vector instruction on bases `A` and `B` meets no fault (R607). -/
def laneRuns (A B : Int) (k : Nat) : Bool :=
  decide (10 ≤ A + k) && decide (A + k ≤ 2047) && decide (0 ≤ B + k) && decide (B + k ≤ 2047)

/-- The fault lane `k` meets when it does not run: its two reads come before its store (R607, R703). -/
def laneFault (A B : Int) (k : Nat) : FaultKind :=
  if decide (0 ≤ A + k) && decide (A + k ≤ 2047) && decide (0 ≤ B + k) && decide (B + k ≤ 2047)
  then .protectionViolation else .illegalAddress

/-- Memory after the first `k` lanes, each on the memory the one before it left (R607, R609). -/
def lanes (op : Word → Word → Word) (A B : Int) : Nat → Memory → Memory
  | 0, m => m
  | k + 1, m =>
    let m' := lanes op A B k m
    m'.write (A + k).toNat (op (m'.read (A + k).toNat) (m'.read (B + k).toNat))

/-- The state after `n` lanes on state `s` and the end of the instruction: all of them, or those before the
first that faults, and that fault handled (R607, R702). -/
def vectorDone (p : Config.Params) (op : Word → Word → Word) (A B : Int) (n : Nat) (s : State) : State :=
  match (List.range n).find? fun k => !laneRuns A B k with
  | none => { s with mem := lanes op A B n s.mem, pc := s.pc + 1#12 }
  | some k => faulted p (laneFault A B k) { s with mem := lanes op A B k s.mem }

/-- One change of the machine under parameters `p`: a step or an ExecuteIR, whatever its outcome, HostError among
them; an operation of the host; or the environment changing the devices (R102, R350, R353, R354, R810, R811). -/
inductive Changes (p : Config.Params) (s : State) : State → Prop
  | step : Changes p s (stepWith p s).state
  | executeIR : Changes p s (executeIRWith p s).state
  | run (env : List (Devices → Devices)) : Changes p s (hostRun p env s).state
  | reset : Changes p s (hostReset s)
  | load (pairs : List (Int × Word)) : Changes p s (hostLoad pairs s).1
  | setPc (a : Word) : Changes p s (hostSetPc a s)
  | setReg (r : HostReg) (v : Word) : Changes p s (hostSetReg r v s)
  | setCc (i : Fin 4) (b : Bool) : Changes p s (hostSetCc i b s)
  | loadIr (w : Word) : Changes p s (hostLoadIr w s)
  | environment (d : Devices) : Changes p s (s.setDev d)

/-- A state the machine can stand in under parameters `p`: reset, or one change from such a state (R102). -/
inductive Reachable (p : Config.Params) : State → Prop
  | reset : Reachable p State.reset
  | change {s t : State} : Reachable p s → Changes p s t → Reachable p t

/-- The instructions that store a program-chosen value at a program-chosen address (R208). -/
def storesProgramData : Mnemonic → Bool
  | .str | .stx | .stfr | .vadd | .vsub => true
  | .hlt | .ldr | .lda | .amr | .smr | .air | .sir | .jz | .jne | .jcc | .jma | .jsr | .rfs | .sob
  | .jge | .mlt | .dvd | .trr | .and | .orr | .not | .trap | .src | .rrc | .fadd | .fsub | .cnvrt
  | .ldx | .ldfr | .inp | .out | .chk => false

/-- The instructions that write a general register (R104). -/
def writesGpr : Mnemonic → Bool
  | .ldr | .lda | .amr | .smr | .air | .sir | .jsr | .rfs | .mlt | .dvd | .and | .orr | .not | .src
  | .rrc | .inp | .chk | .cnvrt => true
  | .hlt | .str | .jz | .jne | .jcc | .jma | .sob | .jge | .trr | .trap | .fadd | .fsub | .vadd | .vsub
  | .ldx | .stx | .ldfr | .stfr | .out => false

/-- The instructions that write a floating register (R112). -/
def writesFr : Mnemonic → Bool
  | .fadd | .fsub | .ldfr | .cnvrt => true
  | .hlt | .ldr | .str | .lda | .amr | .smr | .air | .sir | .jz | .jne | .jcc | .jma | .jsr | .rfs | .sob
  | .jge | .mlt | .dvd | .trr | .and | .orr | .not | .trap | .src | .rrc | .vadd | .vsub | .ldx | .stx
  | .stfr | .inp | .out | .chk => false

/-- The instructions that call a device (R708). -/
def callsDevice : Mnemonic → Bool
  | .inp | .out | .chk => true
  | .hlt | .ldr | .str | .lda | .amr | .smr | .air | .sir | .jz | .jne | .jcc | .jma | .jsr | .rfs | .sob
  | .jge | .mlt | .dvd | .trr | .and | .orr | .not | .trap | .src | .rrc | .fadd | .fsub | .vadd | .vsub
  | .cnvrt | .ldx | .stx | .ldfr | .stfr => false

end Sys2Proof.Safety
end

