-- ==== Sys2Proof/Certificates/Slice0/Obligations.lean ====
section
/-!
DEFINITION. The statements for the provers. Each is about every state and every operand that meets its hypotheses;
`Reaches`, `Ready`, `scratched`, `effectiveAddress`, `stored`, `transferred` and `faulted` are the
vocabulary of Sys2Proof/Safety.lean, which gives next states whole but for MAR and MBR, on which no claim may
rely (R109): so each such statement is its own frame.
-/

open Sys2Proof Sys2Proof.Machine Sys2Proof.Safety

/-- Words the spec writes out decode to the instructions it names (R330, R401, R402, R405, R442, R501, R541,
R560, R562, R573, R606, R650; the spec marks parts of these as its decisions D1, D10, D15, D17, D20, D24, D26,
D30, D37, D40, D43; the opcode value is the default of R330, general knowledge of the spec: log entry 4). -/
def Obligations.SpecWordsDecodeToTheirInstructions : Prop :=
  decode 0x0514#16 = .ok (.ldr 1 0 false 20) ∧
  decode 0x0840#16 = .ok (.str 0 1 false 0) ∧
  decode 0x889E#16 = .ok (.stx 0#2 2 false 30) ∧
  decode 0x1A1F#16 = .ok (.air 2 0 false 31) ∧
  decode 0x2C22#16 = .ok (.jma 0#2 0 true 2) ∧
  decode 0x4080#16 = .ok (.mlt 0 2 0#6) ∧
  decode 0x6584#16 = .ok (.src 1 true false 0#2 4) ∧
  decode 0x6005#16 = .ok (.trap 0#6 5) ∧
  decode 0xC901#16 = .ok (.out 1 0#3 1) ∧
  decode 0xA514#16 = .ok (.stfr 1 0 false 20) ∧
  decode 0x0000#16 = .ok (.hlt 0#10)

/-- Decoding the word of a well-formed instruction gives it back, under every injective opcode map (R300, R301,
R302, R303, R304, R305, R306, R307, R309, R320; the spec marks parts of these as its decisions D2, D3, D4). -/
def Obligations.DecodeInvertsEncodeUnderEveryOpcodeMap : Prop :=
  (∀ (om : Mnemonic → BitVec 6) (i : Instr), (∀ m n, om m = om n → m = n) → i.wellFormed = true →
    decodeWith om (encodeWith om i) = .ok i) ∧
  (∀ i : Instr, i.wellFormed = true → decode (encode i) = .ok i)

/-- A word that decodes is the encoding of what it decodes to. That a term keeps the unused bits of its word, so
that encode gives the word back, is the model's choice, log entry 2: R308 lets every value of such a bit decode
to the same instruction (R300, R308, R333; the spec marks parts of these as its decisions D3, D29). -/
def Obligations.EncodeInvertsDecode : Prop :=
  ∀ (w : Word) (i : Instr), decode w = .ok i → i.wellFormed = true ∧ encode i = w

/-- Exactly the words with one of the 27 unassigned opcodes do not decode (R320, R330, R331, R333; the spec
marks parts of these as its decisions D1; the opcode value is the default of R330, general knowledge of the
spec: log entry 4). -/
def Obligations.UnassignedOpcodesAreTheTwentySeven : Prop :=
  (∀ w : Word, decode w = .error (.unassignedOpcode (w.extractLsb' 10 6)) ↔
    (w.extractLsb' 10 6).toNat ∈ [22, 23, 32, 35, 36, 37, 38, 39, 42, 43, 44, 45, 46, 47, 48, 52, 53,
      54, 55, 56, 57, 58, 59, 60, 61, 62, 63]) ∧
  (∀ w : Word, (∃ i, decode w = .ok i) ∨ decode w = .error (.unassignedOpcode (w.extractLsb' 10 6))) ∧
  (∀ (om : Mnemonic → BitVec 6) (op : BitVec 6), mnemonicOf om op = none ↔ ∀ m, om m ≠ op)

/-- The opcode IR[15:10] selects the handler through OpcodeMap; an unassigned value the illegal-opcode handler
(R320). -/
def Obligations.TheOpcodeSelectsTheHandlerThroughTheOpcodeMap : Prop :=
  ∀ (p : Config.Params) (s : State), (∀ m n, p.opcodeMap m = p.opcodeMap n → m = n) →
    (∀ m : Mnemonic, p.opcodeMap m = s.ir.extractLsb' 10 6 →
      ∃ i : Instr, i.mnemonic = m ∧ encodeWith p.opcodeMap i = s.ir ∧
        executeIRWith p s = reportWith p i s) ∧
    ((∀ m : Mnemonic, p.opcodeMap m ≠ s.ir.extractLsb' 10 6) →
      executeIRWith p s = reportIllegal p s.ir s)

/-- Formats I, T and H: every word reads RX, IX, I and immed, or code, from the bits the layouts give (R302,
R305, R307). -/
def Obligations.ImmediateTrapAndHaltWordsReadTheirFields : Prop :=
  ∀ (om : Mnemonic → BitVec 6) (w : Word), (∀ m n, om m = om n → m = n) →
    (∀ rx ix : Fin 4, rx.val = (w.extractLsb' 8 2).toNat → ix.val = (w.extractLsb' 6 2).toNat →
      (w.extractLsb' 10 6 = om .air →
        decodeWith om w = .ok (.air rx ix (w.getLsbD 5) (w.extractLsb' 0 5).toNat)) ∧
      (w.extractLsb' 10 6 = om .sir →
        decodeWith om w = .ok (.sir rx ix (w.getLsbD 5) (w.extractLsb' 0 5).toNat)) ∧
      (w.extractLsb' 10 6 = om .rfs →
        decodeWith om w = .ok (.rfs (w.extractLsb' 8 2) ix (w.getLsbD 5) (w.extractLsb' 0 5).toNat))) ∧
    (w.extractLsb' 10 6 = om .trap →
      decodeWith om w = .ok (.trap (w.extractLsb' 4 6) (w.extractLsb' 0 4).toNat)) ∧
    (w.extractLsb' 10 6 = om .hlt → decodeWith om w = .ok (.hlt (w.extractLsb' 0 10)))

/-- Whatever the format, the resolver reads IR[7:6], IR[5] and IR[4:0] (R308, R312; the spec marks parts of
these as its decisions D9, D29, D30). -/
def Obligations.ResolverReadsTheSameBitsInEveryFormat : Prop :=
  ∀ (w : Word) (i : Instr), decode w = .ok i →
    (fieldsOf Config.params i).ix.val = (w.extractLsb' 6 2).toNat ∧
    (fieldsOf Config.params i).indirect = w.getLsbD 5 ∧
    (fieldsOf Config.params i).addr = (w.extractLsb' 0 5).toNat

/-- The resolver: indexing, the scratch slot, one level of indirection, the range fault (R111, R310, R702; the
spec marks parts of these as its decisions D8, D11, D13, D36). -/
def Obligations.ResolverComputesTheEffectiveAddress : Prop :=
  ∀ (f : EaFields) (s : State),
    (PointerReadable f s → ∃ t, resolve f s = .ok (effectiveAddress f s) t ∧ AgreesWith t (scratched f s)) ∧
    (¬ PointerReadable f s → ∃ t, resolve f s = .raised .illegalAddress t ∧
      AgreesWith t { s with mem := s.mem.write 6 (preAddress f s), mfr := s.mfr ||| 8#4 })

/-- An indirect read outside memory faults, whatever the instruction and the parameters (R312, R702, R703, R704;
the spec marks parts of these as its decisions D7, D8, D9, D11, D30). -/
def Obligations.IndirectReadFaultComesBeforeTheHandler : Prop :=
  (∀ (i : Instr) (s : State), s.mfr = 0#4 → ¬ PointerReadable (fieldsOf Config.params i) s →
    Reaches i s (faulted Config.params .illegalAddress (afterResolve i s))) ∧
  (∀ (p : Config.Params) (i : Instr) (s : State), s.mfr = 0#4 → ¬ PointerReadable (fieldsOf p i) s →
    ReportsWith p i s (.faulted .illegalAddress)
      (faulted p .illegalAddress (scratched (fieldsOf p i) s)))

/-- MemRead and StoreWrite: the range check, then the reserved slots, no wrapping (R111, R206, R208, R702; the
spec marks parts of these as its decisions D8, D10, D11, D13). -/
def Obligations.AccessesCheckTheRangeThenTheReservedSlots : Prop :=
  ∀ (n : Int) (v : Word) (s : State),
    (0 ≤ n ∧ n ≤ 2047 → ∃ t, memRead n s = .ok (s.mem.read n.toNat) t ∧ AgreesWith t s) ∧
    (¬ (0 ≤ n ∧ n ≤ 2047) →
      (∃ t, memRead n s = .raised .illegalAddress t ∧ AgreesWith t { s with mfr := s.mfr ||| 8#4 }) ∧
      (∃ t, storeWrite n v s = .raised .illegalAddress t ∧ AgreesWith t { s with mfr := s.mfr ||| 8#4 })) ∧
    (0 ≤ n ∧ n ≤ 9 → ∃ t, storeWrite n v s = .raised .protectionViolation t ∧
      AgreesWith t { s with mfr := s.mfr ||| 1#4 }) ∧
    (10 ≤ n ∧ n ≤ 2047 → ∃ t, storeWrite n v s = .ok () t ∧
      AgreesWith t { s with mem := s.mem.write n.toNat v })

/-- A load after a store reads the stored word there, the old word elsewhere; STFR then LDFR restores FR0, FR1
(R212, R401, R402, R605, R606; the spec marks parts of these as its decisions D10, D24, D33). -/
def Obligations.AStoreThenALoadReadsTheStoredWords : Prop :=
  (∀ (r ix q jx : Fin 4) (a b : Nat) (s : State), Inv s →
    10 ≤ (preAddress ⟨ix, false, a⟩ s).toInt → (preAddress ⟨ix, false, a⟩ s).toInt ≤ 2047 →
    Addressable (preAddress ⟨jx, false, b⟩ s) →
    ∃ t u, exec (.str r ix false a) s = .next t ∧ exec (.ldr q jx false b) t = .next u ∧
      u.readGpr q =
        if preAddress ⟨jx, false, b⟩ s = preAddress ⟨ix, false, a⟩ s then s.readGpr r
        else s.mem.read (preAddress ⟨jx, false, b⟩ s).toNat) ∧
  (∀ (fx ix : Fin 4) (addr : Nat) (s : State) (junk : Vector Word 2), Inv s → (fx = 0 ∨ fx = 1) →
    10 ≤ (preAddress ⟨ix, false, addr⟩ s).toInt → (preAddress ⟨ix, false, addr⟩ s).toInt ≤ 2046 →
    ∃ t u, exec (.stfr fx ix false addr) s = .next t ∧
      exec (.ldfr fx ix false addr) { t with fr := junk } = .next u ∧ u.fr = s.fr)

/-- LDR: the register takes the word at ea; nothing else changes; a missing address faults (R401; the opcode
value is the default of R330, general knowledge of the spec: log entry 4). -/
def Obligations.LdrLoadsTheWordAtTheEffectiveAddress : Prop :=
  ∀ (r ix : Fin 4) (ind : Bool) (addr : Nat) (s : State),
    let i : Instr := .ldr r ix ind addr
    let s1 := afterResolve i s
    let ea := eaOf i s
    encode i &&& 0xFC00#16 = 0x0400#16 ∧
    (Ready i s →
      (Addressable ea → Reaches i s (s1.writeGpr r (s1.mem.read ea.toNat)).advancePc) ∧
      (¬ Addressable ea → Reaches i s (faulted Config.params .illegalAddress s1)))

/-- STR: the word at ea takes the register; reserved slots and missing addresses fault unwritten (R402; the
opcode value is the default of R330, general knowledge of the spec: log entry 4). -/
def Obligations.StrStoresTheRegisterOrFaults : Prop :=
  ∀ (r ix : Fin 4) (ind : Bool) (addr : Nat) (s : State),
    let i : Instr := .str r ix ind addr
    let s1 := afterResolve i s
    let ea := eaOf i s
    encode i &&& 0xFC00#16 = 0x0800#16 ∧
    (Ready i s → Reaches i s (stored Config.params ea (s.readGpr r) s1))

/-- LDA: the register takes the effective address itself, in range or not (R403; the spec marks parts of these
as its decisions D8; the opcode value is the default of R330, general knowledge of the spec: log entry 4). -/
def Obligations.LdaLoadsTheAddressUnchecked : Prop :=
  ∀ (r ix : Fin 4) (ind : Bool) (addr : Nat) (s : State),
    let i : Instr := .lda r ix ind addr
    let s1 := afterResolve i s
    let ea := eaOf i s
    encode i &&& 0xFC00#16 = 0x0C00#16 ∧
    (Ready i s → Reaches i s (s1.writeGpr r ea).advancePc)

/-- LDX and STX: the selected index register from and to the word at ea; selector 0 does nothing (R105, R208,
R312, R404, R405; the spec marks parts of these as its decisions D9, D10, D30; the opcode value is the default
of R330, general knowledge of the spec: log entry 4). -/
def Obligations.LdxAndStxMoveTheIndexRegister : Prop :=
  ∀ (rx : BitVec 2) (ix : Fin 4) (ind : Bool) (addr : Nat) (s : State),
    let s1 := afterResolve (.ldx rx ix ind addr) s
    let ea := eaOf (.ldx rx ix ind addr) s
    (encode (.ldx rx ix ind addr) &&& 0xFC00#16 = 0x8400#16 ∧
      encode (.stx rx ix ind addr) &&& 0xFC00#16 = 0x8800#16 ∧
      fieldsOf Config.params (.ldx rx ix ind addr) = ⟨ix, ind, addr⟩ ∧
      fieldsOf Config.params (.stx rx ix ind addr) = ⟨ix, ind, addr⟩) ∧
    (Ready (.ldx rx ix ind addr) s →
      (ix = 0 → Reaches (.ldx rx ix ind addr) s s1.advancePc ∧
        Reaches (.stx rx ix ind addr) s s1.advancePc) ∧
      (∀ k : Fin 3, ix.val = k.val + 1 →
        (Addressable ea →
          Reaches (.ldx rx ix ind addr) s (s1.writeX k (s1.mem.read ea.toNat)).advancePc) ∧
        (¬ Addressable ea → Reaches (.ldx rx ix ind addr) s (faulted Config.params .illegalAddress s1)) ∧
        Reaches (.stx rx ix ind addr) s (stored Config.params ea (s.readX k) s1)))

/-- AMR, SMR, AIR, SIR: the register plus or minus the word at ea or the raw field, modulo 2^16, no flag (R440,
R441, R442, R443, R444; the spec marks parts of these as its decisions D40; the opcode value is the default of
R330, general knowledge of the spec: log entry 4). -/
def Obligations.AdditionAndSubtractionWrapWithoutAFlag : Prop :=
  ∀ (r ix : Fin 4) (ind : Bool) (addr : Nat) (s : State),
    let s1 := afterResolve (.amr r ix ind addr) s
    let ea := eaOf (.amr r ix ind addr) s
    (encode (.amr r ix ind addr) &&& 0xFC00#16 = 0x1000#16 ∧
      encode (.smr r ix ind addr) &&& 0xFC00#16 = 0x1400#16 ∧
      encode (.air r ix ind addr) &&& 0xFC00#16 = 0x1800#16 ∧
      encode (.sir r ix ind addr) &&& 0xFC00#16 = 0x1C00#16) ∧
    (Ready (.amr r ix ind addr) s →
      (Addressable ea →
        Reaches (.amr r ix ind addr) s
          (s1.writeGpr r (s.readGpr r + s1.mem.read ea.toNat)).advancePc ∧
        Reaches (.smr r ix ind addr) s
          (s1.writeGpr r (s.readGpr r - s1.mem.read ea.toNat)).advancePc) ∧
      (¬ Addressable ea →
        Reaches (.amr r ix ind addr) s (faulted Config.params .illegalAddress s1) ∧
        Reaches (.smr r ix ind addr) s (faulted Config.params .illegalAddress s1)) ∧
      Reaches (.air r ix ind addr) s (s1.writeGpr r (s.readGpr r + BitVec.ofNat 16 addr)).advancePc ∧
      Reaches (.sir r ix ind addr) s (s1.writeGpr r (s.readGpr r - BitVec.ofNat 16 addr)).advancePc)

/-- JZ, JNE, JGE, SOB: taken on = 0, not 0, >= 0, > 0; only a taken one checks its target (R461, R462, R465,
R468; the spec marks parts of these as its decisions D7; the opcode value is the default of R330, general
knowledge of the spec: log entry 4). -/
def Obligations.RegisterBranchesTestOneRegister : Prop :=
  ∀ (r ix : Fin 4) (ind : Bool) (addr : Nat) (s : State),
    let s1 := afterResolve (.jz r ix ind addr) s
    let taken := transferred Config.params (eaOf (.jz r ix ind addr) s) s1 s1
    let v := s.readGpr r
    (encode (.jz r ix ind addr) &&& 0xFC00#16 = 0x2000#16 ∧
      encode (.jne r ix ind addr) &&& 0xFC00#16 = 0x2400#16 ∧
      encode (.jge r ix ind addr) &&& 0xFC00#16 = 0x3C00#16 ∧
      encode (.sob r ix ind addr) &&& 0xFC00#16 = 0x3800#16) ∧
    (Ready (.jz r ix ind addr) s →
      Reaches (.jz r ix ind addr) s (if v = 0#16 then taken else s1.advancePc) ∧
      Reaches (.jne r ix ind addr) s (if v = 0#16 then s1.advancePc else taken) ∧
      Reaches (.jge r ix ind addr) s (if 0 ≤ v.toInt then taken else s1.advancePc) ∧
      Reaches (.sob r ix ind addr) s (if 0 < v.toInt then taken else s1.advancePc))

/-- JCC: taken when CC[cc] is 1, which it then clears; a target fault leaves the flag (R463; the spec marks
parts of these as its decisions D7; the opcode value is the default of R330, general knowledge of the spec: log
entry 4). -/
def Obligations.JccConsumesTheFlagItTests : Prop :=
  ∀ (cc ix : Fin 4) (ind : Bool) (addr : Nat) (s : State),
    let i : Instr := .jcc cc ix ind addr
    let s1 := afterResolve i s
    let ea := eaOf i s
    encode i &&& 0xFC00#16 = 0x2800#16 ∧
    (Ready i s →
      (s.cc.getMsbD cc = false → Reaches i s s1.advancePc) ∧
      (s.cc.getMsbD cc = true → ∃ cc' : BitVec 4,
        (∀ j : Fin 4, cc'.getMsbD j = (decide (j ≠ cc) && s.cc.getMsbD j)) ∧
        Reaches i s (transferred Config.params ea s1 (s1.setCc cc'))))

/-- JMA: control goes to ea, or IllegalAddress (R464; the opcode value is the default of R330, general knowledge
of the spec: log entry 4). -/
def Obligations.JmaAlwaysTransfers : Prop :=
  ∀ (rx : BitVec 2) (ix : Fin 4) (ind : Bool) (addr : Nat) (s : State),
    let i : Instr := .jma rx ix ind addr
    let s1 := afterResolve i s
    let ea := eaOf i s
    encode i &&& 0xFC00#16 = 0x2C00#16 ∧
    (Ready i s → Reaches i s (transferred Config.params ea s1 s1))

/-- JSR: link register PC + 1, parameter register ea + 1, control to ea; a target fault writes nothing (R466;
the spec marks parts of these as its decisions D16, D42; the opcode value is the default of R330, general
knowledge of the spec: log entry 4). -/
def Obligations.JsrWritesLinkAndParameter : Prop :=
  ∀ (rx : BitVec 2) (ix : Fin 4) (ind : Bool) (addr : Nat) (s : State),
    let i : Instr := .jsr rx ix ind addr
    let s1 := afterResolve i s
    let ea := eaOf i s
    encode i &&& 0xFC00#16 = 0x3000#16 ∧ Config.params.linkReg ≠ Config.params.paramReg ∧
    (Ready i s →
      Reaches i s (transferred Config.params ea s1
        ((s1.writeGpr Config.params.linkReg (BitVec.ofNat 16 (s.pc.toNat + 1))).writeGpr
          Config.params.paramReg (ea + 1#16))))

/-- RFS: PC takes the low 12 bits of the link register, the parameter register the immediate (R467; the spec
marks parts of these as its decisions D16, D41; the opcode value is the default of R330, general knowledge of
the spec: log entry 4). -/
def Obligations.RfsReturnsThroughTheLinkRegister : Prop :=
  ∀ (rx : BitVec 2) (ix : Fin 4) (ind : Bool) (immed : Nat) (s : State),
    let i : Instr := .rfs rx ix ind immed
    let s1 := afterResolve i s
    encode i &&& 0xFC00#16 = 0x3400#16 ∧
    (Ready i s →
      Reaches i s ((s1.writeGpr Config.params.paramReg (BitVec.ofNat 16 immed)).setPc
        ((s.readGpr Config.params.linkReg).setWidth 12)))

/-- MLT: the exact 32-bit signed product across the even pair; odd selectors do nothing (R500, R501, R503; the
spec marks parts of these as its decisions D2, D17, D18; the opcode value is the default of R330, general
knowledge of the spec: log entry 4). -/
def Obligations.MltWritesTheExactProduct : Prop :=
  ∀ (rx ry : Fin 4) (u : BitVec 6) (s : State),
    let i : Instr := .mlt rx ry u
    let s1 := afterResolve i s
    let p : Int := (s.readGpr rx).toInt * (s.readGpr ry).toInt
    encode i &&& 0xFC00#16 = 0x4000#16 ∧
    (Ready i s →
      ((rx = 0 ∨ rx = 2) ∧ (ry = 0 ∨ ry = 2) →
        Reaches i s ((s1.writeGpr (rx + 1) (BitVec.ofInt 16 p)).writeGpr rx
          (BitVec.ofInt 16 (p / 65536))).advancePc) ∧
      (¬ ((rx = 0 ∨ rx = 2) ∧ (ry = 0 ∨ ry = 2)) → Reaches i s s1.advancePc))

/-- DVD: truncated quotient and remainder; a zero divisor sets only CC[2]; odd selectors do nothing (R500, R502;
the spec marks parts of these as its decisions D2, D18; the opcode value is the default of R330, general
knowledge of the spec: log entry 4). -/
def Obligations.DvdWritesQuotientAndRemainderOrSetsCcTwo : Prop :=
  ∀ (rx ry : Fin 4) (u : BitVec 6) (s : State),
    let i : Instr := .dvd rx ry u
    let s1 := afterResolve i s
    let a : Int := (s.readGpr rx).toInt
    let b : Int := (s.readGpr ry).toInt
    encode i &&& 0xFC00#16 = 0x4400#16 ∧
    (Ready i s →
      ((rx = 0 ∨ rx = 2) ∧ (ry = 0 ∨ ry = 2) → b ≠ 0 →
        Reaches i s ((s1.writeGpr rx (BitVec.ofInt 16 (a.tdiv b))).writeGpr (rx + 1)
          (BitVec.ofInt 16 (a.tmod b))).advancePc) ∧
      ((rx = 0 ∨ rx = 2) ∧ (ry = 0 ∨ ry = 2) → b = 0 → ∃ cc' : BitVec 4,
        (∀ j : Fin 4, cc'.getMsbD j = (decide (j = 2) || s.cc.getMsbD j)) ∧
        Reaches i s (s1.setCc cc').advancePc) ∧
      (¬ ((rx = 0 ∨ rx = 2) ∧ (ry = 0 ∨ ry = 2)) → Reaches i s s1.advancePc))

/-- Division law: a = q*b + r, r of the sign of a, |r| < |b|; -32768 / -1 wraps; the product is exact (R503; the
spec marks parts of these as its decisions D18). -/
def Obligations.DivisionTruncatesTowardZero : Prop :=
  (∀ a b : Word, b ≠ 0#16 →
    (remainder a b).toInt.natAbs < b.toInt.natAbs ∧
    (0 ≤ a.toInt → 0 ≤ (remainder a b).toInt) ∧ (a.toInt ≤ 0 → (remainder a b).toInt ≤ 0) ∧
    (¬ (a = 0x8000#16 ∧ b = 0xFFFF#16) →
      a.toInt = (quotient a b).toInt * b.toInt + (remainder a b).toInt)) ∧
  quotient 0x8000#16 0xFFFF#16 = 0x8000#16 ∧ remainder 0x8000#16 0xFFFF#16 = 0#16 ∧
  (∀ a b : Word, (product a b).toInt = a.toInt * b.toInt)

/-- TRR: CC[3] is set on equality and, by default, left alone on inequality (R110, R520; the spec marks parts of
these as its decisions D19, D39; the opcode value is the default of R330, general knowledge of the spec: log
entry 4). -/
def Obligations.TrrSetsCcThreeOnEquality : Prop :=
  ∀ (rx ry : Fin 4) (u : BitVec 6) (s : State),
    let i : Instr := .trr rx ry u
    let s1 := afterResolve i s
    encode i &&& 0xFC00#16 = 0x4800#16 ∧
    (Ready i s →
      (s.readGpr rx = s.readGpr ry → ∃ cc' : BitVec 4,
        (∀ j : Fin 4, cc'.getMsbD j = (decide (j = 3) || s.cc.getMsbD j)) ∧
        Reaches i s (s1.setCc cc').advancePc) ∧
      (s.readGpr rx ≠ s.readGpr ry → Reaches i s s1.advancePc))

/-- AND, ORR and NOT: bitwise on all 16 bits, no flag (R521, R522, R523; the opcode value is the default of
R330, general knowledge of the spec: log entry 4). -/
def Obligations.LogicInstructionsActBitwise : Prop :=
  ∀ (rx ry : Fin 4) (u : BitVec 6) (n : BitVec 8) (s : State),
    let s1 := afterResolve (.and rx ry u) s
    let s2 := afterResolve (.not rx n) s
    (encode (.and rx ry u) &&& 0xFC00#16 = 0x4C00#16 ∧
      encode (.orr rx ry u) &&& 0xFC00#16 = 0x5000#16 ∧
      encode (.not rx n) &&& 0xFC00#16 = 0x5400#16) ∧
    (Ready (.and rx ry u) s →
      (∃ v : Word, (∀ j : Nat, v.getLsbD j = ((s.readGpr rx).getLsbD j && (s.readGpr ry).getLsbD j)) ∧
        Reaches (.and rx ry u) s (s1.writeGpr rx v).advancePc) ∧
      (∃ v : Word, (∀ j : Nat, v.getLsbD j = ((s.readGpr rx).getLsbD j || (s.readGpr ry).getLsbD j)) ∧
        Reaches (.orr rx ry u) s (s1.writeGpr rx v).advancePc)) ∧
    (Ready (.not rx n) s →
      ∃ v : Word, (∀ j : Nat, j < 16 → v.getLsbD j = !(s.readGpr rx).getLsbD j) ∧
        Reaches (.not rx n) s (s2.writeGpr rx v).advancePc)

/-- SRC: left in either mode, logical right, arithmetic right; no flag (R541; the spec marks parts of these as
its decisions D20; the opcode value is the default of R330, general knowledge of the spec: log entry 4). -/
def Obligations.SrcShiftsByItsCount : Prop :=
  ∀ (r : Fin 4) (al lr : Bool) (u : BitVec 2) (c : Nat) (s : State),
    let i : Instr := .src r al lr u c
    let s1 := afterResolve i s
    let v := s.readGpr r
    encode i &&& 0xFC00#16 = 0x6400#16 ∧
    (Ready i s →
      Reaches i s (s1.writeGpr r
        (if lr then BitVec.ofNat 16 (v.toNat * 2 ^ c)
          else if al then BitVec.ofNat 16 (v.toNat / 2 ^ c)
          else BitVec.ofInt 16 (v.toInt / 2 ^ c))).advancePc)

/-- RRC: every bit moves by the count modulo 16, left or right; A/L is ignored; no flag (R542; the spec marks
parts of these as its decisions D35; the opcode value is the default of R330, general knowledge of the spec: log
entry 4). -/
def Obligations.RrcRotatesByItsCount : Prop :=
  ∀ (r : Fin 4) (al lr : Bool) (u : BitVec 2) (c : Nat) (s : State),
    let i : Instr := .rrc r al lr u c
    let s1 := afterResolve i s
    let v := s.readGpr r
    (encode i &&& 0xFC00#16 = 0x6800#16 ∧
      (∀ (d : Bool) (w : Word), rotateWord d w 16 = w) ∧
      (∀ (w : Word) (k : Nat), k ≤ 16 → rotateWord true w k = rotateWord false w (16 - k))) ∧
    (Ready i s → ∃ w : Word,
      (∀ j : Nat, j < 16 →
        if lr then w.getLsbD ((j + c) % 16) = v.getLsbD j else w.getLsbD j = v.getLsbD ((j + c) % 16)) ∧
      Reaches i s (s1.writeGpr r w).advancePc)

/-- TRAP: slot 0 takes the code, slot 2 PC + 1; by default execution goes on at PC + 1 (R207, R560, R561; the
spec marks parts of these as its decisions D10, D15; the opcode value is the default of R330, general knowledge
of the spec: log entry 4). -/
def Obligations.TrapRecordsCodeAndReturnAddress : Prop :=
  ∀ (u : BitVec 6) (code : Nat) (s : State),
    let i : Instr := .trap u code
    let s1 := afterResolve i s
    encode i &&& 0xFC00#16 = 0x6000#16 ∧
    (Ready i s →
      Reaches i s { s1 with
        mem := (s1.mem.write 0 (BitVec.ofNat 16 code)).write 2 (BitVec.ofNat 16 (s.pc.toNat + 1))
        pc := s.pc + 1#12 })

/-- IN: the keyboard unit from device 0, 0 from any other id; a failed call ends the step (log entry 5) (R354,
R570, R571, R572, R811; the spec marks parts of these as its decisions D4, D28, D37, D43; the opcode value is
the default of R330, general knowledge of the spec: log entry 4). -/
def Obligations.InReadsTheKeyboard : Prop :=
  ∀ (r : Fin 4) (u : BitVec 3) (devid : Nat) (s : State),
    let i : Instr := .inp r u devid
    let s1 := afterResolve i s
    let reply := s.dev.kbdReadDraws.headD (Config.freeKbdRead s.dev.calls)
    let called := s1.setDev { s.dev with
      kbdReadDraws := s.dev.kbdReadDraws.tail
      kbdStatusDraws := s.dev.kbdStatusDraws.tail
      calls := s.dev.calls + 1 }
    encode i &&& 0xFC00#16 = 0xC400#16 ∧
    (Ready i s →
      (devid ≠ 0 → Reaches i s (s1.writeGpr r 0#16).advancePc) ∧
      (devid = 0 → ∀ v, reply = some v → Reaches i s (called.writeGpr r v).advancePc) ∧
      (devid = 0 → reply = none →
        ∃ t, exec i s = .fault (.hostError .kbdRead t) ∧ AgreesWith t called))

/-- OUT: GPR[r][7:0] to the printer at device 1, nothing at any other id (log entry 5) (R202, R354, R570, R571,
R573, R811; the spec marks parts of these as its decisions D4, D5, D28, D37, D43; the opcode value is the
default of R330, general knowledge of the spec: log entry 4). -/
def Obligations.OutHandsTheLowByteToThePrinter : Prop :=
  ∀ (r : Fin 4) (u : BitVec 3) (devid : Nat) (s : State),
    let i : Instr := .out r u devid
    let s1 := afterResolve i s
    let reply := s.dev.prtWriteDraws.headD (Config.freePrtWrite s.dev.calls)
    let called (bytes : List Byte) : State := s1.setDev { s.dev with
      prtWriteDraws := s.dev.prtWriteDraws.tail
      prtStatusDraws := s.dev.prtStatusDraws.tail
      calls := s.dev.calls + 1
      printed := s.dev.printed ++ bytes }
    encode i &&& 0xFC00#16 = 0xC800#16 ∧
    (Ready i s →
      (devid ≠ 1 → Reaches i s s1.advancePc) ∧
      (devid = 1 → reply = some () → Reaches i s (called [(s.readGpr r).extractLsb' 0 8]).advancePc) ∧
      (devid = 1 → reply = none →
        ∃ t, exec i s = .fault (.hostError .prtWrite t) ∧ AgreesWith t (called [])))

/-- CHK: the status bit of device 0 or 1, 0 for any other id; the devices do not change (log entry 5) (R354,
R570, R571, R574, R811; the spec marks parts of these as its decisions D4, D28, D37; the opcode value is the
default of R330, general knowledge of the spec: log entry 4). -/
def Obligations.ChkReadsTheDeviceStatus : Prop :=
  ∀ (r : Fin 4) (u : BitVec 3) (devid : Nat) (s : State),
    let i : Instr := .chk r u devid
    let s1 := afterResolve i s
    let kbd := s.dev.kbdStatusDraws.headD (Config.freeKbdStatus s.dev.calls)
    let prt := s.dev.prtStatusDraws.headD (Config.freePrtStatus s.dev.calls)
    let word (b : Bool) : Word := if b then 1#16 else 0#16
    encode i &&& 0xFC00#16 = 0xCC00#16 ∧ s1.dev = s.dev ∧
    (Ready i s →
      (devid ≠ 0 → devid ≠ 1 → Reaches i s (s1.writeGpr r 0#16).advancePc) ∧
      (devid = 0 →
        (∀ b, kbd = some b → Reaches i s (s1.writeGpr r (word b)).advancePc) ∧
        (kbd = none → ∃ t, exec i s = .fault (.hostError .kbdStatus t) ∧ AgreesWith t s1)) ∧
      (devid = 1 →
        (∀ b, prt = some b → Reaches i s (s1.writeGpr r (word b)).advancePc) ∧
        (prt = none → ∃ t, exec i s = .fault (.hostError .prtStatus t) ∧ AgreesWith t s1)))

/-- FADD and FSUB: FR[f] takes FAdd or FSub of itself and the word at ea, no flag (R600, R601, R602, R603; the
spec marks parts of these as its decisions D21, D22; the opcode value is the default of R330, general knowledge
of the spec: log entry 4). -/
def Obligations.FaddAndFsubApplyTheConfiguredFunctions : Prop :=
  ∀ (fr ix : Fin 4) (ind : Bool) (addr : Nat) (f : Fin 2) (s : State),
    let s1 := afterResolve (.fadd fr ix ind addr) s
    let ea := eaOf (.fadd fr ix ind addr) s
    encode (.fadd fr ix ind addr) &&& 0xFC00#16 = 0x6C00#16 ∧
    encode (.fsub fr ix ind addr) &&& 0xFC00#16 = 0x7000#16 ∧
    (Ready (.fadd fr ix ind addr) s → fr.val = f.val →
      (Addressable ea →
        Reaches (.fadd fr ix ind addr) s
          (s1.writeFr f (Config.params.fAdd (s.readFr f) (s1.mem.read ea.toNat))).advancePc ∧
        Reaches (.fsub fr ix ind addr) s
          (s1.writeFr f (Config.params.fSub (s.readFr f) (s1.mem.read ea.toNat))).advancePc) ∧
      (¬ Addressable ea →
        Reaches (.fadd fr ix ind addr) s (faulted Config.params .illegalAddress s1) ∧
        Reaches (.fsub fr ix ind addr) s (faulted Config.params .illegalAddress s1)))

/-- CNVRT: F = 0 loads the integer part of FR0, any other F loads FR0 from the register (R600, R604; the spec
marks parts of these as its decisions D22, D23; the opcode value is the default of R330, general knowledge of
the spec: log entry 4). -/
def Obligations.CnvrtConvertsInTheDirectionOfTheRegister : Prop :=
  ∀ (r ix : Fin 4) (ind : Bool) (addr : Nat) (s : State),
    let i : Instr := .cnvrt r ix ind addr
    let s1 := afterResolve i s
    encode i &&& 0xFC00#16 = 0x7C00#16 ∧
    (Ready i s →
      (s.readGpr r = 0#16 →
        Reaches i s (s1.writeGpr r (Config.params.fToInt (s.readFr 0))).advancePc) ∧
      (s.readGpr r ≠ 0#16 →
        Reaches i s (s1.writeFr 0 (Config.params.intToF (s.readGpr r))).advancePc))

/-- LDFR: the two words at ea and ea + 1 into FR0 and FR1, swapped by fx = 1 (R601, R605; the spec marks parts
of these as its decisions D21, D24; the opcode value is the default of R330, general knowledge of the spec: log
entry 4). -/
def Obligations.LdfrLoadsThePairInFxOrder : Prop :=
  ∀ (fx ix : Fin 4) (ind : Bool) (addr : Nat) (s : State),
    let i : Instr := .ldfr fx ix ind addr
    let s1 := afterResolve i s
    let ea := eaOf i s
    let w0 := s1.mem.read ea.toNat
    let w1 := s1.mem.read (ea.toNat + 1)
    encode i &&& 0xFC00#16 = 0xA000#16 ∧
    (Ready i s →
      (fx = 0 → 0 ≤ ea.toInt → ea.toInt ≤ 2046 →
        Reaches i s { s1 with fr := #v[w0, w1], pc := s.pc + 1#12 }) ∧
      (fx = 1 → 0 ≤ ea.toInt → ea.toInt ≤ 2046 →
        Reaches i s { s1 with fr := #v[w1, w0], pc := s.pc + 1#12 }) ∧
      (fx = 0 ∨ fx = 1 → ¬ (0 ≤ ea.toInt ∧ ea.toInt ≤ 2046) →
        Reaches i s (faulted Config.params .illegalAddress s1)))

/-- STFR: FR0 and FR1 to ea and ea + 1, swapped by fx = 1; a second fault keeps the first write (R601, R606,
R702; the spec marks parts of these as its decisions D10, D11, D21, D24; the opcode value is the default of
R330, general knowledge of the spec: log entry 4). -/
def Obligations.StfrStoresThePairInFxOrder : Prop :=
  ∀ (fx ix : Fin 4) (ind : Bool) (addr : Nat) (s : State),
    let i : Instr := .stfr fx ix ind addr
    let s1 := afterResolve i s
    let ea := eaOf i s
    let a := if fx = 0 then s.readFr 0 else s.readFr 1
    let b := if fx = 0 then s.readFr 1 else s.readFr 0
    encode i &&& 0xFC00#16 = 0xA400#16 ∧
    (Ready i s → (fx = 0 ∨ fx = 1) →
      (10 ≤ ea.toInt ∧ ea.toInt ≤ 2046 →
        Reaches i s { s1 with
          mem := (s1.mem.write ea.toNat a).write (ea.toNat + 1) b
          pc := s.pc + 1#12 }) ∧
      (0 ≤ ea.toInt ∧ ea.toInt ≤ 9 → Reaches i s (faulted Config.params .protectionViolation s1)) ∧
      (ea.toInt = 2047 →
        Reaches i s (faulted Config.params .illegalAddress (s1.setMem (s1.mem.write 2047 a)))) ∧
      (¬ Addressable ea → Reaches i s (faulted Config.params .illegalAddress s1)))

/-- VADD and VSUB: the lanes in order, in place, up to the first fault; no lane for a count below 1 (R601, R607,
R608, R609, R702; the spec marks parts of these as its decisions D10, D11, D21, D25; the opcode value is the
default of R330, general knowledge of the spec: log entry 4). -/
def Obligations.VaddAndVsubRunTheirLanesInOrder : Prop :=
  ∀ (fr ix : Fin 4) (ind : Bool) (addr : Nat) (f : Fin 2) (s : State),
    let s1 := afterResolve (.vadd fr ix ind addr) s
    let ea := eaOf (.vadd fr ix ind addr) s
    let A := (s1.mem.read ea.toNat).toInt
    let B := (s1.mem.read (ea.toNat + 1)).toInt
    let n := (Config.params.fCount (s.readFr f)).toNat
    encode (.vadd fr ix ind addr) &&& 0xFC00#16 = 0x7400#16 ∧
    encode (.vsub fr ix ind addr) &&& 0xFC00#16 = 0x7800#16 ∧
    (Ready (.vadd fr ix ind addr) s → fr.val = f.val →
      (0 ≤ ea.toInt ∧ ea.toInt ≤ 2046 →
        Reaches (.vadd fr ix ind addr) s (vectorDone Config.params (· + ·) A B n s1) ∧
        Reaches (.vsub fr ix ind addr) s (vectorDone Config.params (· - ·) A B n s1)) ∧
      (¬ (0 ≤ ea.toInt ∧ ea.toInt ≤ 2046) →
        Reaches (.vadd fr ix ind addr) s (faulted Config.params .illegalAddress s1) ∧
        Reaches (.vsub fr ix ind addr) s (faulted Config.params .illegalAddress s1)))

/-- VADD and VSUB on disjoint vectors: every element of the first is its old value plus or minus the other
(R607, R608, R609; the spec marks parts of these as its decisions D10, D25). -/
def Obligations.DisjointVectorsAddElementwise : Prop :=
  ∀ (p : Config.Params) (sub : Bool) (fr ix : Fin 4) (ind : Bool) (addr : Nat) (f : Fin 2) (s : State),
    let i : Instr := if sub then .vsub fr ix ind addr else .vadd fr ix ind addr
    let s1 := scratched ⟨ix, ind, addr⟩ s
    let ea := effectiveAddress ⟨ix, ind, addr⟩ s
    let A := (s1.mem.read ea.toNat).toInt
    let B := (s1.mem.read (ea.toNat + 1)).toInt
    let n := (p.fCount (s.readFr f)).toNat
    Inv s → PointerReadable ⟨ix, ind, addr⟩ s → fr.val = f.val → 0 ≤ ea.toInt → ea.toInt ≤ 2046 →
    (∀ k : Nat, k < n → laneRuns A B k = true) →
    (∀ j k : Nat, j < n → k < n → A + j ≠ B + k) →
    ∃ t, reportWith p i s = .done .ok t ∧ t.pc = s.pc + 1#12 ∧
      (∀ k : Nat, k < n → t.mem.read (A + k).toNat =
        if sub then s1.mem.read (A + k).toNat - s1.mem.read (B + k).toNat
        else s1.mem.read (A + k).toNat + s1.mem.read (B + k).toNat) ∧
      (∀ a : Nat, (∀ k : Nat, k < n → (a : Int) ≠ A + k) → t.mem.read a = s1.mem.read a)

/-- HLT: Halted becomes 1 and, by default, PC advances; the outcome is Halt (R113, R352, R650; the spec marks
parts of these as its decisions D12, D26, D28, D45; the opcode value is the default of R330, general knowledge
of the spec: log entry 4). -/
def Obligations.HltSetsHaltedAndAdvances : Prop :=
  ∀ (u : BitVec 10) (s : State),
    let i : Instr := .hlt u
    let s1 := afterResolve i s
    encode i &&& 0xFC00#16 = 0x0000#16 ∧
    (Ready i s →
      Reaches i s (s1.setHalted true).advancePc ∧
      ReportsWith Config.params i s .halt (s1.setHalted true).advancePc)

/-- An FR or fx selector of 2 or 3 takes IllegalOpcode before any memory access of the handler (R601; the spec
marks parts of these as its decisions D21). -/
def Obligations.UndefinedFloatSelectorsAreIllegal : Prop :=
  ∀ (fr ix : Fin 4) (ind : Bool) (addr : Nat) (s : State),
    let s1 := afterResolve (.fadd fr ix ind addr) s
    Ready (.fadd fr ix ind addr) s → 2 ≤ fr.val →
      Reaches (.fadd fr ix ind addr) s (faulted Config.params .illegalOpcode s1) ∧
      Reaches (.fsub fr ix ind addr) s (faulted Config.params .illegalOpcode s1) ∧
      Reaches (.vadd fr ix ind addr) s (faulted Config.params .illegalOpcode s1) ∧
      Reaches (.vsub fr ix ind addr) s (faulted Config.params .illegalOpcode s1) ∧
      Reaches (.ldfr fr ix ind addr) s (faulted Config.params .illegalOpcode s1) ∧
      Reaches (.stfr fr ix ind addr) s (faulted Config.params .illegalOpcode s1)

/-- MLT, TRR and HLT under MltHighWord = UNCHANGED, TrrClearsOnNe = true, HltAdvancesPc = false (R9, R501, R520,
R650; the spec marks parts of these as its decisions D1, D17, D19, D26). -/
def Obligations.ArithmeticUnderTheOtherParameterValues : Prop :=
  ∀ (p : Config.Params) (rx ry : Fin 4) (u : BitVec 6) (v : BitVec 10) (s : State), s.mfr = 0#4 →
    (p.mltHighWord = .unchanged → (rx = 0 ∨ rx = 2) → (ry = 0 ∨ ry = 2) →
      PointerReadable (.ofRR ry u) s →
      ReportsWith p (.mlt rx ry u) s .ok
        ((scratched (.ofRR ry u) s).writeGpr (rx + 1)
          (BitVec.ofInt 16 ((s.readGpr rx).toInt * (s.readGpr ry).toInt))).advancePc) ∧
    (p.trrClearsOnNe = true → s.readGpr rx ≠ s.readGpr ry → PointerReadable (.ofRR ry u) s →
      ∃ cc' : BitVec 4, (∀ j : Fin 4, cc'.getMsbD j = (decide (j ≠ 3) && s.cc.getMsbD j)) ∧
        ReportsWith p (.trr rx ry u) s .ok ((scratched (.ofRR ry u) s).setCc cc').advancePc) ∧
    (p.hltAdvancesPc = false → PointerReadable (.ofH v) s →
      ReportsWith p (.hlt v) s .halt ((scratched (.ofH v) s).setHalted true))

/-- LDX, STX, TRAP and CNVRT under LdxStxIndexed = false, a TrapDispatch, CnvrtSource = MEMORY (R9, R208, R312,
R404, R405, R560, R561, R604; the spec marks parts of these as its decisions D1, D9, D10, D15, D23, D30). -/
def Obligations.AddressingUnderTheOtherParameterValues : Prop :=
  ∀ (p : Config.Params) (r ix : Fin 4) (rx : BitVec 2) (ind : Bool) (addr : Nat) (s : State), s.mfr = 0#4 →
    (p.ldxStxIndexed = false →
      let f : EaFields := ⟨0, ind, addr⟩
      let s1 := scratched f s
      let ea := effectiveAddress f s
      fieldsOf p (.ldx rx ix ind addr) = f ∧ fieldsOf p (.stx rx ix ind addr) = f ∧
      (PointerReadable f s →
        (ix = 0 →
          ReportsWith p (.ldx rx ix ind addr) s .ok s1.advancePc ∧
          ReportsWith p (.stx rx ix ind addr) s .ok s1.advancePc) ∧
        (∀ k : Fin 3, ix.val = k.val + 1 →
          (Addressable ea →
            ReportsWith p (.ldx rx ix ind addr) s .ok (s1.writeX k (s1.mem.read ea.toNat)).advancePc) ∧
          (10 ≤ ea.toInt ∧ ea.toInt ≤ 2047 →
            ReportsWith p (.stx rx ix ind addr) s .ok
              (s1.setMem (s1.mem.write ea.toNat (s.readX k))).advancePc) ∧
          (0 ≤ ea.toInt ∧ ea.toInt ≤ 9 →
            ReportsWith p (.stx rx ix ind addr) s (.faulted .protectionViolation)
              (faulted p .protectionViolation s1)) ∧
          (¬ Addressable ea →
            ReportsWith p (.ldx rx ix ind addr) s (.faulted .illegalAddress)
              (faulted p .illegalAddress s1) ∧
            ReportsWith p (.stx rx ix ind addr) s (.faulted .illegalAddress)
              (faulted p .illegalAddress s1))))) ∧
    (∀ (d : (Fin 2048 → Word) → BitVec 4 → PcWord) (u : BitVec 6) (code : Nat),
      p.trapDispatch = some d → PointerReadable (.ofT u code) s →
      let m := ((scratched (.ofT u code) s).mem.write 0 (BitVec.ofNat 16 code)).write 2
        (BitVec.ofNat 16 (s.pc.toNat + 1))
      ReportsWith p (.trap u code) s .ok
        { scratched (.ofT u code) s with
          mem := m
          pc := d (fun a => m.read a.val) (BitVec.ofNat 4 code) }) ∧
    (p.cnvrtSource = .memory → PointerReadable ⟨ix, ind, addr⟩ s →
      let s1 := scratched ⟨ix, ind, addr⟩ s
      let m := s1.mem.read (effectiveAddress ⟨ix, ind, addr⟩ s).toNat
      (Addressable (effectiveAddress ⟨ix, ind, addr⟩ s) →
        ReportsWith p (.cnvrt r ix ind addr) s .ok
          (if s.readGpr r = 0#16 then s1.writeGpr r (p.fToInt m) else s1.writeFr 0 (p.intToF m)).advancePc) ∧
      (¬ Addressable (effectiveAddress ⟨ix, ind, addr⟩ s) →
        ReportsWith p (.cnvrt r ix ind addr) s (.faulted .illegalAddress) (faulted p .illegalAddress s1)))

/-- A step runs the instruction the word at PC decodes to (R350, R215; the spec marks parts of these as its
decisions D33, D34). -/
def Obligations.StepRunsTheDecodedInstruction : Prop :=
  ∀ (s : State) (i : Instr), s.pc.toNat ≤ 2047 → decode (s.mem.read s.pc.toNat) = .ok i →
    ∃ t, AgreesWith t (s.setIr (s.mem.read s.pc.toNat)) ∧ step s = exec i t

/-- A word with an unassigned opcode: IllegalOpcode, M[1] = 4, PC + 1 in PC and M[4] (R352, R651, R701, R710;
the spec marks parts of these as its decisions D12, D13, D14, D26, D28, D44). -/
def Obligations.StepOnAnUnassignedOpcodeTakesIllegalOpcode : Prop :=
  ∀ (s : State) (e : DecodeError), s.pc.toNat ≤ 2047 → s.mfr = 0#4 →
    decode (s.mem.read s.pc.toNat) = .error e →
    let w := s.mem.read s.pc.toNat
    let f := EaFields.ofWord w
    let s1 := scratched f (s.setIr w)
    (PointerReadable f s →
      ∃ t, step s = .next t ∧ AgreesWith t (faulted Config.params .illegalOpcode s1)) ∧
    (¬ PointerReadable f s →
      ∃ t, step s = .next t ∧ AgreesWith t (faulted Config.params .illegalAddress s1))

/-- A fetch at PC of 2048 or more: IllegalAddress, IR unchanged, control at FaultHandlerAddr (R351, R701, R710,
R712; the spec marks parts of these as its decisions D6, D12, D13, D14, D44). -/
def Obligations.FetchOutsideMemoryTakesIllegalAddress : Prop :=
  ∀ s : State, 2048 ≤ s.pc.toNat → s.mfr = 0#4 →
    fetch s = .raised .illegalAddress { s with mfr := 8#4 } ∧
    ∃ t, step s = .next t ∧ AgreesWith t (faulted Config.params .illegalAddress s)

/-- The fault controller: M[1] the packed MFR, PC redirected on MFR[0], MFR cleared, M[4] the PC (R710; the spec
marks parts of these as its decisions D13, D14). -/
def Obligations.FaultControllerRecordsAndRedirects : Prop :=
  ∀ (p : Config.Params) (s : State),
    let pc' := if s.mfr.getMsbD 0 then p.faultHandlerAddr else s.pc
    (s.mfr = 0#4 → faultController p s = s) ∧
    (s.mfr ≠ 0#4 → AgreesWith (faultController p s)
      { s with
        mem := (s.mem.write 1 (s.mfr.setWidth 16)).write 4 (pc'.setWidth 16)
        pc := pc'
        mfr := 0#4 })

/-- step and exec are the parametric machine at the default parameters. That exec and step take the defaults and
drop the outcome is the model's choice, log entries 4 and 7 (R9, R350, R354; the spec marks parts of these as
its decisions D1, D28, D34). -/
def Obligations.StepIsTheParametricStepAtTheDefaults : Prop :=
  (∀ (i : Instr) (s : State), exec i s = execWith Config.params i s) ∧
  (∀ s : State, step s = (stepWith Config.params s).toHost)

/-- Every step keeps memory canonical and leaves MFR = 0. The canonical form of memory is the model's, log entry
1; that MFR is 0 is the spec's (R200, R355, R711; the spec marks parts of these as its decisions D5). -/
def Obligations.StepKeepsMemoryCanonicalAndMfrZero : Prop :=
  (∀ s t : State, Inv s → step s = .next t → Inv t) ∧
  (∀ (s t : State) (c : DeviceCall), Inv s → step s = .fault (.hostError c t) → Inv t)

/-- Every step, ExecuteIR, run, host operation and change of the devices keeps memory canonical and MFR = 0. The
canonical form of memory is the model's, log entry 1; how a run is looked at, log entry 12 (R102, R200, R353,
R354, R355, R711, R800, R810, R811; the spec marks parts of these as its decisions D5, D28, D32, D34, D37, D38).
-/
def Obligations.EveryChangeKeepsMemoryCanonicalAndMfrZero : Prop :=
  (∀ (p : Config.Params) (s t : State), Inv s → Changes p s t → Inv t) ∧
  (∀ (p : Config.Params) (s : State), Reachable p s → Inv s)

/-- Reset: every register, flag and memory word is 0, and the invariant holds. The canonical form Inv states is
the model's, log entry 1, and so are the devices as data, log entry 5 (R117, R800, R811; the spec marks parts of
these as its decisions D28, D32, D37). -/
def Obligations.ResetLeavesEveryRegisterAndWordZero : Prop :=
  (∀ r, State.reset.readGpr r = 0#16) ∧ (∀ k, State.reset.readX k = 0#16) ∧
  (∀ f, State.reset.readFr f = 0#16) ∧ State.reset.pc = 0#12 ∧ State.reset.ir = 0#16 ∧
  State.reset.mar = 0#12 ∧ State.reset.mbr = 0#16 ∧ State.reset.cc = 0#4 ∧ State.reset.mfr = 0#4 ∧
  (∀ a, State.reset.mem.read a = 0#16) ∧ State.reset.halted = false ∧ Inv State.reset ∧
  (∀ s : State, hostReset s = { State.reset with dev := s.dev })

/-- No step changes the reserved slots 3, 5, 7, 8 and 9 (R205, R207, R208; the spec marks parts of these as its
decisions D10, D13). -/
def Obligations.UnnamedReservedSlotsChangeOnlyByTheHost : Prop :=
  ∀ s t : State, Inv s → step s = .next t →
    ∀ n ∈ [3, 5, 7, 8, 9], t.mem.read n = s.mem.read n

/-- A word at 10 or above changes only by STR, STX, STFR, VADD or VSUB; slots 0 and 2 only by TRAP (R207, R208,
R706; the spec marks parts of these as its decisions D10). -/
def Obligations.ProgramMemoryChangesOnlyByStoreInstructions : Prop :=
  ∀ (i : Instr) (s t : State), Inv s → exec i s = .next t →
    (storesProgramData i.mnemonic = false → ∀ n : Nat, 10 ≤ n → t.mem.read n = s.mem.read n) ∧
    (i.mnemonic ≠ .trap → t.mem.read 0 = s.mem.read 0 ∧ t.mem.read 2 = s.mem.read 2)

/-- No instruction sets CC[0] or CC[1]; only DVD sets CC[2], TRR CC[3]; only JCC clears the flag it tests (R110,
R463, R502, R520, R707; the spec marks parts of these as its decisions D7, D18, D19, D39). -/
def Obligations.ConditionCodesChangeOnlyAsTheTableSays : Prop :=
  ∀ (i : Instr) (s t : State), exec i s = .next t → ∀ f : Fin 4,
    (s.cc.getMsbD f = false → t.cc.getMsbD f = true →
      (f = 2 ∧ i.mnemonic = .dvd) ∨ (f = 3 ∧ i.mnemonic = .trr)) ∧
    (s.cc.getMsbD f = true → t.cc.getMsbD f = false → ∃ ix ind addr, i = .jcc f ix ind addr)

/-- CC[2] goes up only under DVD with even selectors and a zero divisor, which sets CC[2] and nothing else
(R707). -/
def Obligations.ArithmeticFaultIsDvdByZeroAndSetsOnlyCcTwo : Prop :=
  (∀ (i : Instr) (s t : State), exec i s = .next t →
    s.cc.getMsbD 2 = false → t.cc.getMsbD 2 = true →
    ∃ (rx ry : Fin 4) (u : BitVec 6), i = .dvd rx ry u ∧ (rx = 0 ∨ rx = 2) ∧ (ry = 0 ∨ ry = 2) ∧
      s.readGpr ry = 0#16) ∧
  (∀ (rx ry : Fin 4) (u : BitVec 6) (s : State), s.mfr = 0#4 → PointerReadable (.ofRR ry u) s →
    (rx = 0 ∨ rx = 2) → (ry = 0 ∨ ry = 2) → s.readGpr ry = 0#16 →
    ∃ t, exec (.dvd rx ry u) s = .next t ∧
      (∀ f : Fin 4, t.cc.getMsbD f = (decide (f = 2) || s.cc.getMsbD f)) ∧ t.pc = s.pc + 1#12 ∧
      t.mfr = 0#4 ∧ t.gpr = s.gpr ∧ t.x = s.x ∧ t.fr = s.fr ∧ t.ir = s.ir ∧ t.halted = s.halted ∧
      t.dev = s.dev ∧ t.mem = (scratched (.ofRR ry u) s).mem)

/-- GPR, X, FR, Halted, IR and the devices change only by the instructions the state rules list. The devices as
a field are the model's, log entry 5 (R104, R105, R108, R112, R113, R201, R708; the spec marks parts of these as
its decisions D4, D28, D45). -/
def Obligations.RegisterFilesChangeOnlyByTheirInstructions : Prop :=
  ∀ (i : Instr) (s t : State), exec i s = .next t →
    (writesGpr i.mnemonic = false → t.gpr = s.gpr) ∧
    (i.mnemonic ≠ .ldx → t.x = s.x) ∧
    (writesFr i.mnemonic = false → t.fr = s.fr) ∧
    (i.mnemonic ≠ .hlt → t.halted = s.halted) ∧
    (callsDevice i.mnemonic = false → t.dev = s.dev) ∧
    t.ir = s.ir

/-- No step is refused; the only stop is HostError, met by IN, OUT or CHK (R354, R700, R708, R812; the spec
marks parts of these as its decisions D28, D38). -/
def Obligations.OnlyAFailedDeviceCallStopsAStep : Prop :=
  (∀ (i : Instr) (s : State), callsDevice i.mnemonic = false → ∃ t, exec i s = .next t) ∧
  (∀ (s : State) (r : Refusal), step s ≠ .refused r) ∧
  (∀ (s : State) (r : Fault), step s = .fault r →
    ∃ c t i, r = .hostError c t ∧ decode t.ir = .ok i ∧ callsDevice i.mnemonic = true ∧ t.pc = s.pc)

/-- With FaultHandlerAddr of 2048 or more a fetch fault repeats for ever. The environment's changes as a list,
one before each step, are the model's, log entry 12 (R351, R715, R811; the spec marks parts of these as its
decisions D6, D14, D28, D37). -/
def Obligations.AHandlerOutsideMemorySpins : Prop :=
  ∀ (p : Config.Params) (env : List (Devices → Devices)) (s : State),
    2048 ≤ p.faultHandlerAddr.toNat → 2048 ≤ s.pc.toNat →
    ∃ t, runSteps p env s = .running t ∧ 2048 ≤ t.pc.toNat ∧ (env ≠ [] → t.pc = p.faultHandlerAddr)

/-- The word 0x2C22 (JMA 0,2,1) jumps through the trap return slot. That the word is a JMA rests on the default
OpcodeMap, general knowledge of the spec: log entry 4 (R310, R464, R562; the spec marks parts of these as its
decisions D8, D36). -/
def Obligations.TheTrapReturnIdiomReturns : Prop :=
  ∀ s : State, Inv s → s.pc.toNat ≤ 2047 → s.mem.read s.pc.toNat = 0x2C22#16 →
    Addressable (s.mem.read 2) →
    ∃ t, step s = .next t ∧
      AgreesWith t { s with
        ir := 0x2C22#16
        mem := s.mem.write 6 2#16
        pc := (s.mem.read 2).setWidth 12 }

/-- Load: the last pair of a location wins, reserved slots included; a location outside memory is refused. The
list of the refused locations, collected pair by pair in list order, is the model's choice, log entry 12, and
the canonical form of memory is its own too, log entry 1 (R802; the spec marks parts of these as its decisions
D46). -/
def Obligations.LoadStoresThePairsVerbatim : Prop :=
  ∀ (pairs : List (Int × Word)) (s : State), s.mem.wf = true →
    let t := (hostLoad pairs s).1
    (∀ n : Nat, n < 2048 → t.mem.read n =
      match pairs.reverse.find? fun c => decide (c.1 = (n : Int)) with
      | some c => c.2
      | none => s.mem.read n) ∧
    t.mem.wf = true ∧ t = { s with mem := t.mem } ∧
    (hostLoad pairs s).2 = (pairs.map Prod.fst).filter fun l => !decide (0 ≤ l ∧ l ≤ 2047)

/-- Run ends exactly at the first step that executes HLT, with Halted = 1, or that meets HostError. The
environment's changes as a list, one before each step, are the model's, log entry 12 (R113, R810, R811, R812;
the spec marks parts of these as its decisions D28, D34, D37, D38, D45). -/
def Obligations.RunEndsAtTheStepThatHalts : Prop :=
  ∀ (p : Config.Params) (s t : State),
    hostRun p [] s = .running (s.setHalted false) ∧
    (∀ (before : List (Devices → Devices)) (e : Devices → Devices) (o : StepOutcome) (u : State),
      hostRun p before s = .running u → stepWith p (u.setDev (e u.dev)) = .done o t → o ≠ .halt →
      hostRun p (before ++ [e]) s = .running t) ∧
    (∀ env : List (Devices → Devices), hostRun p env s = .halted t ↔
      ∃ (before after : List (Devices → Devices)) (e : Devices → Devices) (u : State),
        env = before ++ e :: after ∧ runSteps p before (s.setHalted false) = .running u ∧
        stepWith p (u.setDev (e u.dev)) = .done .halt t) ∧
    (∀ env : List (Devices → Devices), hostRun p env s = .halted t → t.halted = true) ∧
    (∀ (env : List (Devices → Devices)) (c : DeviceCall), hostRun p env s = .hostError c t ↔
      ∃ (before after : List (Devices → Devices)) (e : Devices → Devices) (u : State),
        env = before ++ e :: after ∧ runSteps p before (s.setHalted false) = .running u ∧
        stepWith p (u.setDev (e u.dev)) = .hostError c t)
end

