-- ==== Sys2Proof/Laws/Memory.lean ====
section
/-!
SUPPORT. Memory: a read after a write, the canonical form kept by every write, and equal readings making equal
memories (spec/20_memory.md R200, R212).
-/

namespace Sys2Proof.Machine

theorem Memory.wfFrom_mono {m : Memory} {lo hi : Nat} (h : lo ≤ hi) (w : m.wfFrom hi = true) :
    m.wfFrom lo = true := by
  cases m with
  | nil => rfl
  | cons c rest =>
    obtain ⟨a, v⟩ := c
    simp only [Memory.wfFrom, Bool.and_eq_true, decide_eq_true_eq] at w ⊢
    exact ⟨⟨⟨by omega, w.1.1.2⟩, w.1.2⟩, w.2⟩

/-- An address below every listed one reads as 0. -/
theorem Memory.read_below {m : Memory} {lo a : Nat} (w : m.wfFrom lo = true) (h : a < lo) :
    m.read a = 0#16 := by
  induction m generalizing lo with
  | nil => rfl
  | cons c rest ih =>
    obtain ⟨b, v⟩ := c
    simp only [Memory.wfFrom, Bool.and_eq_true, decide_eq_true_eq] at w
    have hb : a ≠ b := by omega
    simp only [Memory.read, if_neg hb]
    exact ih w.2 (by omega)

theorem Memory.wfFrom_write {m : Memory} {lo a : Nat} (v : Word) (w : m.wfFrom lo = true)
    (hlo : lo ≤ a) (ha : a < 2048) : (m.write a v).wfFrom lo = true := by
  induction m generalizing lo with
  | nil =>
    by_cases hv : v = 0#16
    · simp [Memory.write, hv, Memory.wfFrom]
    · simp [Memory.write, hv, Memory.wfFrom, hlo, ha]
  | cons c rest ih =>
    obtain ⟨b, u⟩ := c
    have w' := w
    simp only [Memory.wfFrom, Bool.and_eq_true, decide_eq_true_eq] at w
    obtain ⟨⟨⟨h1, h2⟩, h3⟩, h4⟩ := w
    simp only [Memory.write]
    split
    · rename_i hab
      by_cases hv : v = 0#16
      · simpa [hv] using w'
      · simp only [hv, if_false, Memory.wfFrom, Bool.and_eq_true, decide_eq_true_eq]
        exact ⟨⟨⟨hlo, ha⟩, hv⟩, ⟨⟨⟨by omega, h2⟩, h3⟩, h4⟩⟩
    · split
      · rename_i hab
        subst hab
        by_cases hv : v = 0#16
        · simp only [hv, if_true]; exact Memory.wfFrom_mono (by omega) h4
        · simp only [hv, if_false, Memory.wfFrom, Bool.and_eq_true, decide_eq_true_eq]
          exact ⟨⟨⟨hlo, ha⟩, hv⟩, h4⟩
      · simp only [Memory.wfFrom, Bool.and_eq_true, decide_eq_true_eq]
        exact ⟨⟨⟨h1, h2⟩, h3⟩, ih h4 (by omega)⟩

/-- Every write inside memory keeps the canonical form. -/
theorem Memory.wf_write {m : Memory} {a : Nat} (v : Word) (w : m.wf = true) (ha : a < 2048) :
    (m.write a v).wf = true := Memory.wfFrom_write v w (Nat.zero_le _) ha

theorem Memory.read_write_from {m : Memory} {lo : Nat} (a : Nat) (v : Word) (c : Nat)
    (w : m.wfFrom lo = true) : (m.write a v).read c = if c = a then v else m.read c := by
  induction m generalizing lo with
  | nil =>
    by_cases hv : v = 0#16
    · subst hv; simp [Memory.write, Memory.read]
    · simp [Memory.write, hv, Memory.read]
  | cons d rest ih =>
    obtain ⟨b, u⟩ := d
    have w' := w
    simp only [Memory.wfFrom, Bool.and_eq_true, decide_eq_true_eq] at w
    obtain ⟨⟨⟨h1, h2⟩, h3⟩, h4⟩ := w
    simp only [Memory.write]
    split
    · rename_i hab
      by_cases hv : v = 0#16
      · subst hv
        simp only [if_true]
        split
        · rename_i hc; subst hc
          have hw : Memory.wfFrom b ((b, u) :: rest) = true := by
            simp only [Memory.wfFrom, Bool.and_eq_true, decide_eq_true_eq]
            exact ⟨⟨⟨Nat.le_refl _, h2⟩, h3⟩, h4⟩
          exact Memory.read_below hw hab
        · rfl
      · simp only [hv, if_false, Memory.read]
    · split
      · rename_i hab
        subst hab
        by_cases hv : v = 0#16
        · subst hv
          simp only [if_true, Memory.read]
          split
          · rename_i hc; subst hc
            exact Memory.read_below h4 (by omega)
          · rfl
        · simp only [hv, if_false, Memory.read]
          split <;> rfl
      · rename_i hab hne
        simp only [Memory.read]
        by_cases hcb : c = b
        · subst hcb
          rw [if_pos rfl, if_neg (by omega), if_pos rfl]
        · rw [if_neg hcb, ih h4, if_neg hcb]

/-- A read after a write, in canonical memory. -/
theorem Memory.read_write {m : Memory} (a : Nat) (v : Word) (c : Nat) (w : m.wf = true) :
    (m.write a v).read c = if c = a then v else m.read c := Memory.read_write_from a v c w

theorem Memory.read_write_same {m : Memory} (a : Nat) (v : Word) (w : m.wf = true) :
    (m.write a v).read a = v := by rw [Memory.read_write a v a w, if_pos rfl]

theorem Memory.read_write_ne {m : Memory} {a c : Nat} (v : Word) (w : m.wf = true) (h : c ≠ a) :
    (m.write a v).read c = m.read c := by rw [Memory.read_write a v c w, if_neg h]

theorem Memory.ext_from {m n : Memory} {lo : Nat} (wm : m.wfFrom lo = true) (wn : n.wfFrom lo = true)
    (h : ∀ a, m.read a = n.read a) : m = n := by
  induction m generalizing n lo with
  | nil =>
    cases n with
    | nil => rfl
    | cons c rest =>
      obtain ⟨a, v⟩ := c
      have ha := h a
      simp only [Memory.wfFrom, Bool.and_eq_true, decide_eq_true_eq] at wn
      simp only [Memory.read, if_true] at ha
      exact absurd ha.symm wn.1.2
  | cons c rest ih =>
    obtain ⟨a, v⟩ := c
    simp only [Memory.wfFrom, Bool.and_eq_true, decide_eq_true_eq] at wm
    cases n with
    | nil =>
      have ha := h a
      simp only [Memory.read, if_true] at ha
      exact absurd ha wm.1.2
    | cons d rest' =>
      obtain ⟨b, u⟩ := d
      simp only [Memory.wfFrom, Bool.and_eq_true, decide_eq_true_eq] at wn
      have hab : a = b := by
        have h1 := h a
        have h2 := h b
        simp only [Memory.read, if_true] at h1 h2
        by_contra hne
        rcases Nat.lt_or_gt_of_ne hne with hl | hg
        · rw [if_neg hne, Memory.read_below wn.2 (by omega)] at h1
          exact wm.1.2 h1
        · rw [if_neg (fun e => hne e.symm), Memory.read_below wm.2 (by omega)] at h2
          exact wn.1.2 h2.symm
      subst hab
      have hv : v = u := by simpa [Memory.read] using h a
      subst hv
      have hr : rest = rest' := by
        refine ih wm.2 wn.2 fun c => ?_
        by_cases hc : c = a
        · subst hc; rw [Memory.read_below wm.2 (by omega), Memory.read_below wn.2 (by omega)]
        · have := h c
          simpa only [Memory.read, if_neg hc] using this
      rw [hr]

/-- Canonical memories that read alike everywhere are equal. -/
theorem Memory.ext {m n : Memory} (wm : m.wf = true) (wn : n.wf = true)
    (h : ∀ a, m.read a = n.read a) : m = n := Memory.ext_from wm wn h

end Sys2Proof.Machine
end

