-- ==== Sys2Proof/Laws/State.lean ====
section
/-!
SUPPORT. One lemma per field per update of State, true by rfl, and the read-after-write lemmas of the register
files, so that no proof unfolds a record update.
-/

namespace Sys2Proof.Machine

section
variable (s : State)

@[simp] theorem State.writeGpr_gpr (r : Fin 4) (v : Word) : (s.writeGpr r v).gpr = s.gpr.set r v := rfl
@[simp] theorem State.writeGpr_x (r : Fin 4) (v : Word) : (s.writeGpr r v).x = s.x := rfl
@[simp] theorem State.writeGpr_fr (r : Fin 4) (v : Word) : (s.writeGpr r v).fr = s.fr := rfl
@[simp] theorem State.writeGpr_pc (r : Fin 4) (v : Word) : (s.writeGpr r v).pc = s.pc := rfl
@[simp] theorem State.writeGpr_ir (r : Fin 4) (v : Word) : (s.writeGpr r v).ir = s.ir := rfl
@[simp] theorem State.writeGpr_mar (r : Fin 4) (v : Word) : (s.writeGpr r v).mar = s.mar := rfl
@[simp] theorem State.writeGpr_mbr (r : Fin 4) (v : Word) : (s.writeGpr r v).mbr = s.mbr := rfl
@[simp] theorem State.writeGpr_cc (r : Fin 4) (v : Word) : (s.writeGpr r v).cc = s.cc := rfl
@[simp] theorem State.writeGpr_mfr (r : Fin 4) (v : Word) : (s.writeGpr r v).mfr = s.mfr := rfl
@[simp] theorem State.writeGpr_mem (r : Fin 4) (v : Word) : (s.writeGpr r v).mem = s.mem := rfl
@[simp] theorem State.writeGpr_halted (r : Fin 4) (v : Word) : (s.writeGpr r v).halted = s.halted := rfl
@[simp] theorem State.writeGpr_dev (r : Fin 4) (v : Word) : (s.writeGpr r v).dev = s.dev := rfl

@[simp] theorem State.writeX_gpr (k : Fin 3) (v : Word) : (s.writeX k v).gpr = s.gpr := rfl
@[simp] theorem State.writeX_x (k : Fin 3) (v : Word) : (s.writeX k v).x = s.x.set k v := rfl
@[simp] theorem State.writeX_fr (k : Fin 3) (v : Word) : (s.writeX k v).fr = s.fr := rfl
@[simp] theorem State.writeX_pc (k : Fin 3) (v : Word) : (s.writeX k v).pc = s.pc := rfl
@[simp] theorem State.writeX_ir (k : Fin 3) (v : Word) : (s.writeX k v).ir = s.ir := rfl
@[simp] theorem State.writeX_mar (k : Fin 3) (v : Word) : (s.writeX k v).mar = s.mar := rfl
@[simp] theorem State.writeX_mbr (k : Fin 3) (v : Word) : (s.writeX k v).mbr = s.mbr := rfl
@[simp] theorem State.writeX_cc (k : Fin 3) (v : Word) : (s.writeX k v).cc = s.cc := rfl
@[simp] theorem State.writeX_mfr (k : Fin 3) (v : Word) : (s.writeX k v).mfr = s.mfr := rfl
@[simp] theorem State.writeX_mem (k : Fin 3) (v : Word) : (s.writeX k v).mem = s.mem := rfl
@[simp] theorem State.writeX_halted (k : Fin 3) (v : Word) : (s.writeX k v).halted = s.halted := rfl
@[simp] theorem State.writeX_dev (k : Fin 3) (v : Word) : (s.writeX k v).dev = s.dev := rfl

@[simp] theorem State.writeFr_gpr (f : Fin 2) (v : Word) : (s.writeFr f v).gpr = s.gpr := rfl
@[simp] theorem State.writeFr_x (f : Fin 2) (v : Word) : (s.writeFr f v).x = s.x := rfl
@[simp] theorem State.writeFr_fr (f : Fin 2) (v : Word) : (s.writeFr f v).fr = s.fr.set f v := rfl
@[simp] theorem State.writeFr_pc (f : Fin 2) (v : Word) : (s.writeFr f v).pc = s.pc := rfl
@[simp] theorem State.writeFr_ir (f : Fin 2) (v : Word) : (s.writeFr f v).ir = s.ir := rfl
@[simp] theorem State.writeFr_mar (f : Fin 2) (v : Word) : (s.writeFr f v).mar = s.mar := rfl
@[simp] theorem State.writeFr_mbr (f : Fin 2) (v : Word) : (s.writeFr f v).mbr = s.mbr := rfl
@[simp] theorem State.writeFr_cc (f : Fin 2) (v : Word) : (s.writeFr f v).cc = s.cc := rfl
@[simp] theorem State.writeFr_mfr (f : Fin 2) (v : Word) : (s.writeFr f v).mfr = s.mfr := rfl
@[simp] theorem State.writeFr_mem (f : Fin 2) (v : Word) : (s.writeFr f v).mem = s.mem := rfl
@[simp] theorem State.writeFr_halted (f : Fin 2) (v : Word) : (s.writeFr f v).halted = s.halted := rfl
@[simp] theorem State.writeFr_dev (f : Fin 2) (v : Word) : (s.writeFr f v).dev = s.dev := rfl

@[simp] theorem State.setPc_gpr (t : PcWord) : (s.setPc t).gpr = s.gpr := rfl
@[simp] theorem State.setPc_x (t : PcWord) : (s.setPc t).x = s.x := rfl
@[simp] theorem State.setPc_fr (t : PcWord) : (s.setPc t).fr = s.fr := rfl
@[simp] theorem State.setPc_pc (t : PcWord) : (s.setPc t).pc = t := rfl
@[simp] theorem State.setPc_ir (t : PcWord) : (s.setPc t).ir = s.ir := rfl
@[simp] theorem State.setPc_mar (t : PcWord) : (s.setPc t).mar = s.mar := rfl
@[simp] theorem State.setPc_mbr (t : PcWord) : (s.setPc t).mbr = s.mbr := rfl
@[simp] theorem State.setPc_cc (t : PcWord) : (s.setPc t).cc = s.cc := rfl
@[simp] theorem State.setPc_mfr (t : PcWord) : (s.setPc t).mfr = s.mfr := rfl
@[simp] theorem State.setPc_mem (t : PcWord) : (s.setPc t).mem = s.mem := rfl
@[simp] theorem State.setPc_halted (t : PcWord) : (s.setPc t).halted = s.halted := rfl
@[simp] theorem State.setPc_dev (t : PcWord) : (s.setPc t).dev = s.dev := rfl

@[simp] theorem State.advancePc_gpr : (s.advancePc).gpr = s.gpr := rfl
@[simp] theorem State.advancePc_x : (s.advancePc).x = s.x := rfl
@[simp] theorem State.advancePc_fr : (s.advancePc).fr = s.fr := rfl
@[simp] theorem State.advancePc_pc : (s.advancePc).pc = s.pc + 1#12 := rfl
@[simp] theorem State.advancePc_ir : (s.advancePc).ir = s.ir := rfl
@[simp] theorem State.advancePc_mar : (s.advancePc).mar = s.mar := rfl
@[simp] theorem State.advancePc_mbr : (s.advancePc).mbr = s.mbr := rfl
@[simp] theorem State.advancePc_cc : (s.advancePc).cc = s.cc := rfl
@[simp] theorem State.advancePc_mfr : (s.advancePc).mfr = s.mfr := rfl
@[simp] theorem State.advancePc_mem : (s.advancePc).mem = s.mem := rfl
@[simp] theorem State.advancePc_halted : (s.advancePc).halted = s.halted := rfl
@[simp] theorem State.advancePc_dev : (s.advancePc).dev = s.dev := rfl

@[simp] theorem State.setIr_gpr (w : Word) : (s.setIr w).gpr = s.gpr := rfl
@[simp] theorem State.setIr_x (w : Word) : (s.setIr w).x = s.x := rfl
@[simp] theorem State.setIr_fr (w : Word) : (s.setIr w).fr = s.fr := rfl
@[simp] theorem State.setIr_pc (w : Word) : (s.setIr w).pc = s.pc := rfl
@[simp] theorem State.setIr_ir (w : Word) : (s.setIr w).ir = w := rfl
@[simp] theorem State.setIr_mar (w : Word) : (s.setIr w).mar = s.mar := rfl
@[simp] theorem State.setIr_mbr (w : Word) : (s.setIr w).mbr = s.mbr := rfl
@[simp] theorem State.setIr_cc (w : Word) : (s.setIr w).cc = s.cc := rfl
@[simp] theorem State.setIr_mfr (w : Word) : (s.setIr w).mfr = s.mfr := rfl
@[simp] theorem State.setIr_mem (w : Word) : (s.setIr w).mem = s.mem := rfl
@[simp] theorem State.setIr_halted (w : Word) : (s.setIr w).halted = s.halted := rfl
@[simp] theorem State.setIr_dev (w : Word) : (s.setIr w).dev = s.dev := rfl

@[simp] theorem State.setCc_gpr (c : BitVec 4) : (s.setCc c).gpr = s.gpr := rfl
@[simp] theorem State.setCc_x (c : BitVec 4) : (s.setCc c).x = s.x := rfl
@[simp] theorem State.setCc_fr (c : BitVec 4) : (s.setCc c).fr = s.fr := rfl
@[simp] theorem State.setCc_pc (c : BitVec 4) : (s.setCc c).pc = s.pc := rfl
@[simp] theorem State.setCc_ir (c : BitVec 4) : (s.setCc c).ir = s.ir := rfl
@[simp] theorem State.setCc_mar (c : BitVec 4) : (s.setCc c).mar = s.mar := rfl
@[simp] theorem State.setCc_mbr (c : BitVec 4) : (s.setCc c).mbr = s.mbr := rfl
@[simp] theorem State.setCc_cc (c : BitVec 4) : (s.setCc c).cc = c := rfl
@[simp] theorem State.setCc_mfr (c : BitVec 4) : (s.setCc c).mfr = s.mfr := rfl
@[simp] theorem State.setCc_mem (c : BitVec 4) : (s.setCc c).mem = s.mem := rfl
@[simp] theorem State.setCc_halted (c : BitVec 4) : (s.setCc c).halted = s.halted := rfl
@[simp] theorem State.setCc_dev (c : BitVec 4) : (s.setCc c).dev = s.dev := rfl

@[simp] theorem State.setMfr_gpr (m : BitVec 4) : (s.setMfr m).gpr = s.gpr := rfl
@[simp] theorem State.setMfr_x (m : BitVec 4) : (s.setMfr m).x = s.x := rfl
@[simp] theorem State.setMfr_fr (m : BitVec 4) : (s.setMfr m).fr = s.fr := rfl
@[simp] theorem State.setMfr_pc (m : BitVec 4) : (s.setMfr m).pc = s.pc := rfl
@[simp] theorem State.setMfr_ir (m : BitVec 4) : (s.setMfr m).ir = s.ir := rfl
@[simp] theorem State.setMfr_mar (m : BitVec 4) : (s.setMfr m).mar = s.mar := rfl
@[simp] theorem State.setMfr_mbr (m : BitVec 4) : (s.setMfr m).mbr = s.mbr := rfl
@[simp] theorem State.setMfr_cc (m : BitVec 4) : (s.setMfr m).cc = s.cc := rfl
@[simp] theorem State.setMfr_mfr (m : BitVec 4) : (s.setMfr m).mfr = m := rfl
@[simp] theorem State.setMfr_mem (m : BitVec 4) : (s.setMfr m).mem = s.mem := rfl
@[simp] theorem State.setMfr_halted (m : BitVec 4) : (s.setMfr m).halted = s.halted := rfl
@[simp] theorem State.setMfr_dev (m : BitVec 4) : (s.setMfr m).dev = s.dev := rfl

@[simp] theorem State.setHalted_gpr (b : Bool) : (s.setHalted b).gpr = s.gpr := rfl
@[simp] theorem State.setHalted_x (b : Bool) : (s.setHalted b).x = s.x := rfl
@[simp] theorem State.setHalted_fr (b : Bool) : (s.setHalted b).fr = s.fr := rfl
@[simp] theorem State.setHalted_pc (b : Bool) : (s.setHalted b).pc = s.pc := rfl
@[simp] theorem State.setHalted_ir (b : Bool) : (s.setHalted b).ir = s.ir := rfl
@[simp] theorem State.setHalted_mar (b : Bool) : (s.setHalted b).mar = s.mar := rfl
@[simp] theorem State.setHalted_mbr (b : Bool) : (s.setHalted b).mbr = s.mbr := rfl
@[simp] theorem State.setHalted_cc (b : Bool) : (s.setHalted b).cc = s.cc := rfl
@[simp] theorem State.setHalted_mfr (b : Bool) : (s.setHalted b).mfr = s.mfr := rfl
@[simp] theorem State.setHalted_mem (b : Bool) : (s.setHalted b).mem = s.mem := rfl
@[simp] theorem State.setHalted_halted (b : Bool) : (s.setHalted b).halted = b := rfl
@[simp] theorem State.setHalted_dev (b : Bool) : (s.setHalted b).dev = s.dev := rfl

@[simp] theorem State.setMem_gpr (m : Memory) : (s.setMem m).gpr = s.gpr := rfl
@[simp] theorem State.setMem_x (m : Memory) : (s.setMem m).x = s.x := rfl
@[simp] theorem State.setMem_fr (m : Memory) : (s.setMem m).fr = s.fr := rfl
@[simp] theorem State.setMem_pc (m : Memory) : (s.setMem m).pc = s.pc := rfl
@[simp] theorem State.setMem_ir (m : Memory) : (s.setMem m).ir = s.ir := rfl
@[simp] theorem State.setMem_mar (m : Memory) : (s.setMem m).mar = s.mar := rfl
@[simp] theorem State.setMem_mbr (m : Memory) : (s.setMem m).mbr = s.mbr := rfl
@[simp] theorem State.setMem_cc (m : Memory) : (s.setMem m).cc = s.cc := rfl
@[simp] theorem State.setMem_mfr (m : Memory) : (s.setMem m).mfr = s.mfr := rfl
@[simp] theorem State.setMem_mem (m : Memory) : (s.setMem m).mem = m := rfl
@[simp] theorem State.setMem_halted (m : Memory) : (s.setMem m).halted = s.halted := rfl
@[simp] theorem State.setMem_dev (m : Memory) : (s.setMem m).dev = s.dev := rfl

@[simp] theorem State.setBuffers_gpr (a : Nat) (v : Word) : (s.setBuffers a v).gpr = s.gpr := rfl
@[simp] theorem State.setBuffers_x (a : Nat) (v : Word) : (s.setBuffers a v).x = s.x := rfl
@[simp] theorem State.setBuffers_fr (a : Nat) (v : Word) : (s.setBuffers a v).fr = s.fr := rfl
@[simp] theorem State.setBuffers_pc (a : Nat) (v : Word) : (s.setBuffers a v).pc = s.pc := rfl
@[simp] theorem State.setBuffers_ir (a : Nat) (v : Word) : (s.setBuffers a v).ir = s.ir := rfl
@[simp] theorem State.setBuffers_mar (a : Nat) (v : Word) : (s.setBuffers a v).mar = BitVec.ofNat 12 a := rfl
@[simp] theorem State.setBuffers_mbr (a : Nat) (v : Word) : (s.setBuffers a v).mbr = v := rfl
@[simp] theorem State.setBuffers_cc (a : Nat) (v : Word) : (s.setBuffers a v).cc = s.cc := rfl
@[simp] theorem State.setBuffers_mfr (a : Nat) (v : Word) : (s.setBuffers a v).mfr = s.mfr := rfl
@[simp] theorem State.setBuffers_mem (a : Nat) (v : Word) : (s.setBuffers a v).mem = s.mem := rfl
@[simp] theorem State.setBuffers_halted (a : Nat) (v : Word) : (s.setBuffers a v).halted = s.halted := rfl
@[simp] theorem State.setBuffers_dev (a : Nat) (v : Word) : (s.setBuffers a v).dev = s.dev := rfl

@[simp] theorem State.setDev_gpr (d : Devices) : (s.setDev d).gpr = s.gpr := rfl
@[simp] theorem State.setDev_x (d : Devices) : (s.setDev d).x = s.x := rfl
@[simp] theorem State.setDev_fr (d : Devices) : (s.setDev d).fr = s.fr := rfl
@[simp] theorem State.setDev_pc (d : Devices) : (s.setDev d).pc = s.pc := rfl
@[simp] theorem State.setDev_ir (d : Devices) : (s.setDev d).ir = s.ir := rfl
@[simp] theorem State.setDev_mar (d : Devices) : (s.setDev d).mar = s.mar := rfl
@[simp] theorem State.setDev_mbr (d : Devices) : (s.setDev d).mbr = s.mbr := rfl
@[simp] theorem State.setDev_cc (d : Devices) : (s.setDev d).cc = s.cc := rfl
@[simp] theorem State.setDev_mfr (d : Devices) : (s.setDev d).mfr = s.mfr := rfl
@[simp] theorem State.setDev_mem (d : Devices) : (s.setDev d).mem = s.mem := rfl
@[simp] theorem State.setDev_halted (d : Devices) : (s.setDev d).halted = s.halted := rfl
@[simp] theorem State.setDev_dev (d : Devices) : (s.setDev d).dev = d := rfl

theorem State.readGpr_writeGpr (r q : Fin 4) (v : Word) :
    (s.writeGpr r v).readGpr q = if q = r then v else s.readGpr q := by
  simp only [State.readGpr, State.writeGpr_gpr, Fin.getElem_fin, Vector.getElem_set]
  split <;> split <;> first | rfl | (exfalso; omega)

@[simp] theorem State.readGpr_writeGpr_same (r : Fin 4) (v : Word) :
    (s.writeGpr r v).readGpr r = v := by simp [State.readGpr_writeGpr]

theorem State.readX_writeX (k j : Fin 3) (v : Word) :
    (s.writeX k v).readX j = if j = k then v else s.readX j := by
  simp only [State.readX, State.writeX_x, Fin.getElem_fin, Vector.getElem_set]
  split <;> split <;> first | rfl | (exfalso; omega)

theorem State.readFr_writeFr (f g : Fin 2) (v : Word) :
    (s.writeFr f v).readFr g = if g = f then v else s.readFr g := by
  simp only [State.readFr, State.writeFr_fr, Fin.getElem_fin, Vector.getElem_set]
  split <;> split <;> first | rfl | (exfalso; omega)

@[simp] theorem State.readX_writeGpr (r : Fin 4) (v : Word) (j : Fin 3) : (s.writeGpr r v).readX j = s.readX j := rfl
@[simp] theorem State.readFr_writeGpr (r : Fin 4) (v : Word) (g : Fin 2) : (s.writeGpr r v).readFr g = s.readFr g := rfl
@[simp] theorem State.readGpr_writeX (k : Fin 3) (v : Word) (q : Fin 4) : (s.writeX k v).readGpr q = s.readGpr q := rfl
@[simp] theorem State.readFr_writeX (k : Fin 3) (v : Word) (g : Fin 2) : (s.writeX k v).readFr g = s.readFr g := rfl
@[simp] theorem State.readGpr_writeFr (f : Fin 2) (v : Word) (q : Fin 4) : (s.writeFr f v).readGpr q = s.readGpr q := rfl
@[simp] theorem State.readX_writeFr (f : Fin 2) (v : Word) (j : Fin 3) : (s.writeFr f v).readX j = s.readX j := rfl
@[simp] theorem State.readGpr_setPc (t : PcWord) (q : Fin 4) : (s.setPc t).readGpr q = s.readGpr q := rfl
@[simp] theorem State.readX_setPc (t : PcWord) (j : Fin 3) : (s.setPc t).readX j = s.readX j := rfl
@[simp] theorem State.readFr_setPc (t : PcWord) (g : Fin 2) : (s.setPc t).readFr g = s.readFr g := rfl
@[simp] theorem State.readGpr_advancePc (q : Fin 4) : (s.advancePc).readGpr q = s.readGpr q := rfl
@[simp] theorem State.readX_advancePc (j : Fin 3) : (s.advancePc).readX j = s.readX j := rfl
@[simp] theorem State.readFr_advancePc (g : Fin 2) : (s.advancePc).readFr g = s.readFr g := rfl
@[simp] theorem State.readGpr_setIr (w : Word) (q : Fin 4) : (s.setIr w).readGpr q = s.readGpr q := rfl
@[simp] theorem State.readX_setIr (w : Word) (j : Fin 3) : (s.setIr w).readX j = s.readX j := rfl
@[simp] theorem State.readFr_setIr (w : Word) (g : Fin 2) : (s.setIr w).readFr g = s.readFr g := rfl
@[simp] theorem State.readGpr_setCc (c : BitVec 4) (q : Fin 4) : (s.setCc c).readGpr q = s.readGpr q := rfl
@[simp] theorem State.readX_setCc (c : BitVec 4) (j : Fin 3) : (s.setCc c).readX j = s.readX j := rfl
@[simp] theorem State.readFr_setCc (c : BitVec 4) (g : Fin 2) : (s.setCc c).readFr g = s.readFr g := rfl
@[simp] theorem State.readGpr_setMfr (m : BitVec 4) (q : Fin 4) : (s.setMfr m).readGpr q = s.readGpr q := rfl
@[simp] theorem State.readX_setMfr (m : BitVec 4) (j : Fin 3) : (s.setMfr m).readX j = s.readX j := rfl
@[simp] theorem State.readFr_setMfr (m : BitVec 4) (g : Fin 2) : (s.setMfr m).readFr g = s.readFr g := rfl
@[simp] theorem State.readGpr_setHalted (b : Bool) (q : Fin 4) : (s.setHalted b).readGpr q = s.readGpr q := rfl
@[simp] theorem State.readX_setHalted (b : Bool) (j : Fin 3) : (s.setHalted b).readX j = s.readX j := rfl
@[simp] theorem State.readFr_setHalted (b : Bool) (g : Fin 2) : (s.setHalted b).readFr g = s.readFr g := rfl
@[simp] theorem State.readGpr_setMem (m : Memory) (q : Fin 4) : (s.setMem m).readGpr q = s.readGpr q := rfl
@[simp] theorem State.readX_setMem (m : Memory) (j : Fin 3) : (s.setMem m).readX j = s.readX j := rfl
@[simp] theorem State.readFr_setMem (m : Memory) (g : Fin 2) : (s.setMem m).readFr g = s.readFr g := rfl
@[simp] theorem State.readGpr_setBuffers (a : Nat) (v : Word) (q : Fin 4) : (s.setBuffers a v).readGpr q = s.readGpr q := rfl
@[simp] theorem State.readX_setBuffers (a : Nat) (v : Word) (j : Fin 3) : (s.setBuffers a v).readX j = s.readX j := rfl
@[simp] theorem State.readFr_setBuffers (a : Nat) (v : Word) (g : Fin 2) : (s.setBuffers a v).readFr g = s.readFr g := rfl
@[simp] theorem State.readGpr_setDev (d : Devices) (q : Fin 4) : (s.setDev d).readGpr q = s.readGpr q := rfl
@[simp] theorem State.readX_setDev (d : Devices) (j : Fin 3) : (s.setDev d).readX j = s.readX j := rfl
@[simp] theorem State.readFr_setDev (d : Devices) (g : Fin 2) : (s.setDev d).readFr g = s.readFr g := rfl

end

end Sys2Proof.Machine
end

