-- ==== Sys2Proof/Laws/Ops.lean ====
section
/-!
SUPPORT. For each shared operation, one lemma that says all it can answer, and that it keeps memory in its
canonical form; proofs about instructions cite these and unfold no operation.
-/

namespace Sys2Proof.Machine

/-! ### Parts of an instruction -/

/-- A composed part yields exactly when both of its parts do. -/
theorem Res.bind_eq_ok {α β : Type} {r : Res α} {f : α → State → Res β} {b : β} {u : State} :
    r.bind f = .ok b u ↔ ∃ a t, r = .ok a t ∧ f a t = .ok b u := by
  cases r <;> simp [Res.bind]

/-- A composed part raises exactly when its first part does, or yields and its second part does. -/
theorem Res.bind_eq_raised {α β : Type} {r : Res α} {f : α → State → Res β} {k : FaultKind} {u : State} :
    r.bind f = .raised k u ↔ r = .raised k u ∨ ∃ a t, r = .ok a t ∧ f a t = .raised k u := by
  cases r <;> simp [Res.bind]

@[simp] theorem Res.ok_bind {α β : Type} (a : α) (s : State) (f : α → State → Res β) :
    (Res.ok a s).bind f = f a s := rfl

@[simp] theorem Res.raised_bind {α β : Type} (k : FaultKind) (s : State) (f : α → State → Res β) :
    (Res.raised k s : Res α).bind f = .raised k s := rfl

@[simp] theorem raise_bind {α β : Type} (k : FaultKind) (s : State) (f : α → State → Res β) :
    (raise k s : Res α).bind f = raise k s := rfl

/-! ### Memory access -/

theorem inMemory_iff {n : Int} : inMemory n = true ↔ 0 ≤ n ∧ n ≤ 2047 := by simp [inMemory]

theorem isReserved_iff {n : Int} : isReserved n = true ↔ n ≤ 9 := by simp [isReserved]

/-- A word whose signed reading is not negative reads the same signed and unsigned. -/
theorem s16_toNat {w : Word} (h : 0 ≤ w.toInt) : (s16 w).toNat = w.toNat := by
  have := BitVec.toInt_eq_toNat_cond w
  simp only [s16]
  split at this <;> omega

/-- All that `memRead` can answer (R206). -/
theorem memRead_cases (n : Int) (s : State) :
    ((0 ≤ n ∧ n ≤ 2047) ∧
      memRead n s = .ok (s.mem.read n.toNat) (s.setBuffers n.toNat (s.mem.read n.toNat))) ∨
    (¬ (0 ≤ n ∧ n ≤ 2047) ∧ memRead n s = raise .illegalAddress s) := by
  by_cases h : 0 ≤ n ∧ n ≤ 2047
  · exact .inl ⟨h, if_pos (inMemory_iff.2 h)⟩
  · exact .inr ⟨h, if_neg fun e => h (inMemory_iff.1 e)⟩

/-- All that `storeWrite` can answer (R208). -/
theorem storeWrite_cases (n : Int) (v : Word) (s : State) :
    ((10 ≤ n ∧ n ≤ 2047) ∧ storeWrite n v s = .ok () (memWrite n.toNat v s)) ∨
    ((0 ≤ n ∧ n ≤ 9) ∧ storeWrite n v s = raise .protectionViolation s) ∨
    (¬ (0 ≤ n ∧ n ≤ 2047) ∧ storeWrite n v s = raise .illegalAddress s) := by
  by_cases h : 0 ≤ n ∧ n ≤ 2047
  · by_cases h9 : n ≤ 9
    · exact .inr (.inl ⟨⟨h.1, h9⟩, (if_pos (inMemory_iff.2 h)).trans (if_pos (isReserved_iff.2 h9))⟩)
    · exact .inl ⟨⟨by omega, h.2⟩,
        (if_pos (inMemory_iff.2 h)).trans (if_neg fun e => h9 (isReserved_iff.1 e))⟩
  · exact .inr (.inr ⟨h, if_neg fun e => h (inMemory_iff.1 e)⟩)

@[simp] theorem memWrite_gpr (n : Nat) (v : Word) (s : State) : (memWrite n v s).gpr = s.gpr := rfl
@[simp] theorem memWrite_x (n : Nat) (v : Word) (s : State) : (memWrite n v s).x = s.x := rfl
@[simp] theorem memWrite_fr (n : Nat) (v : Word) (s : State) : (memWrite n v s).fr = s.fr := rfl
@[simp] theorem memWrite_pc (n : Nat) (v : Word) (s : State) : (memWrite n v s).pc = s.pc := rfl
@[simp] theorem memWrite_ir (n : Nat) (v : Word) (s : State) : (memWrite n v s).ir = s.ir := rfl
@[simp] theorem memWrite_cc (n : Nat) (v : Word) (s : State) : (memWrite n v s).cc = s.cc := rfl
@[simp] theorem memWrite_mfr (n : Nat) (v : Word) (s : State) : (memWrite n v s).mfr = s.mfr := rfl
@[simp] theorem memWrite_mem (n : Nat) (v : Word) (s : State) :
    (memWrite n v s).mem = s.mem.write n v := rfl
@[simp] theorem memWrite_halted (n : Nat) (v : Word) (s : State) :
    (memWrite n v s).halted = s.halted := rfl
@[simp] theorem memWrite_dev (n : Nat) (v : Word) (s : State) : (memWrite n v s).dev = s.dev := rfl

/-- All that `fetch` can answer (R350, R351). -/
theorem fetch_cases (s : State) :
    (s.pc.toNat ≤ 2047 ∧ fetch s = .ok ()
      ((s.setBuffers s.pc.toNat (s.mem.read s.pc.toNat)).setIr (s.mem.read s.pc.toNat))) ∨
    (2048 ≤ s.pc.toNat ∧ fetch s = raise .illegalAddress s) := by
  unfold fetch
  rcases memRead_cases s.pc.toNat s with ⟨h, e⟩ | ⟨h, e⟩
  · exact .inl ⟨by omega, by rw [e]; rfl⟩
  · exact .inr ⟨by omega, by rw [e]; rfl⟩

/-! ### Operand forms -/

/-- All that `resolve` can answer, in the model's own operations (R310). -/
theorem resolve_cases (f : EaFields) (s : State) :
    (f.indirect = false ∧ resolve f s = .ok (indexedAddress f s) s) ∨
    (f.indirect = true ∧ resolve f s =
      memRead (s16 (indexedAddress f s)) (memWrite 6 (indexedAddress f s) s)) := by
  unfold resolve
  cases f.indirect
  · exact .inl ⟨rfl, rfl⟩
  · exact .inr ⟨rfl, rfl⟩

/-- All that `target` can answer (R460). -/
theorem target_cases (ea : Word) (s : State) :
    ((0 ≤ ea.toInt ∧ ea.toInt ≤ 2047) ∧ target ea s = .ok (ea.setWidth 12) s) ∨
    (¬ (0 ≤ ea.toInt ∧ ea.toInt ≤ 2047) ∧ target ea s = raise .illegalAddress s) := by
  by_cases h : 0 ≤ ea.toInt ∧ ea.toInt ≤ 2047
  · exact .inl ⟨h, if_pos (inMemory_iff.2 h)⟩
  · exact .inr ⟨h, if_neg fun e => h (inMemory_iff.1 e)⟩

/-- All that `frSel` can answer (R601). -/
theorem frSel_cases (sel : Fin 4) (s : State) :
    (∃ f : Fin 2, sel.val = f.val ∧ frSel sel s = .ok f s) ∨
    (2 ≤ sel.val ∧ frSel sel s = raise .illegalOpcode s) := by
  match sel with
  | 0 => exact .inl ⟨0, rfl, rfl⟩
  | 1 => exact .inl ⟨1, rfl, rfl⟩
  | 2 => exact .inr ⟨Nat.le_refl 2, rfl⟩
  | 3 => exact .inr ⟨by decide, rfl⟩

/-- The index register a selector picks (R105). -/
theorem xSlot_eq_some {ix : Fin 4} {k : Fin 3} : xSlot ix = some k ↔ ix.val = k.val + 1 := by
  revert ix k; decide

/-! ### Device calls -/

/-- A queued reply is what `KbdStatus` answers (R811). -/
theorem kbdStatus_queued {d : Devices} {reply : Option Bool} {rest : List (Option Bool)}
    (h : d.kbdStatusDraws = reply :: rest) : kbdStatus d = reply := by simp [kbdStatus, h]

/-- A queued reply is what `KbdRead` answers (R811). -/
theorem kbdRead_queued {d : Devices} {reply : Option Word} {rest : List (Option Word)}
    (h : d.kbdReadDraws = reply :: rest) : (kbdRead d).1 = reply := by simp [kbdRead, h]

/-- A queued reply is what `PrtStatus` answers (R811). -/
theorem prtStatus_queued {d : Devices} {reply : Option Bool} {rest : List (Option Bool)}
    (h : d.prtStatusDraws = reply :: rest) : prtStatus d = reply := by simp [prtStatus, h]

/-- A queued reply is what `PrtWrite` answers (R811). -/
theorem prtWrite_queued {d : Devices} {reply : Option Unit} {rest : List (Option Unit)} (b : Byte)
    (h : d.prtWriteDraws = reply :: rest) : (prtWrite b d).1 = reply := by simp [prtWrite, h]

/-- All that the handler of IN can end in (R572). -/
theorem handleInp_cases (r : Fin 4) (devid : Nat) (s : State) :
    (devid ≠ 0 ∧ handleInp r devid s = .next (s.writeGpr r 0#16)) ∨
    (devid = 0 ∧ ∃ v, (kbdRead s.dev).1 = some v ∧
      handleInp r devid s = .next ((s.setDev (kbdRead s.dev).2).writeGpr r v)) ∨
    (devid = 0 ∧ (kbdRead s.dev).1 = none ∧
      handleInp r devid s = .failed .kbdRead (s.setDev (kbdRead s.dev).2)) := by
  unfold handleInp
  split
  · rcases kbdRead s.dev with ⟨_ | v, d⟩
    · exact .inr (.inr ⟨‹_›, rfl, rfl⟩)
    · exact .inr (.inl ⟨‹_›, v, rfl, rfl⟩)
  · exact .inl ⟨‹_›, rfl⟩

/-- All that the handler of OUT can end in (R573). -/
theorem handleOut_cases (r : Fin 4) (devid : Nat) (s : State) :
    let call := prtWrite ((s.readGpr r).setWidth 8) s.dev
    (devid ≠ 1 ∧ handleOut r devid s = .next s) ∨
    (devid = 1 ∧ call.1 = some () ∧ handleOut r devid s = .next (s.setDev call.2)) ∨
    (devid = 1 ∧ call.1 = none ∧ handleOut r devid s = .failed .prtWrite (s.setDev call.2)) := by
  unfold handleOut
  split
  · rcases prtWrite ((s.readGpr r).setWidth 8) s.dev with ⟨_ | _, d⟩
    · exact .inr (.inr ⟨‹_›, rfl, rfl⟩)
    · exact .inr (.inl ⟨‹_›, rfl, rfl⟩)
  · exact .inl ⟨‹_›, rfl⟩

/-- All that the handler of CHK can end in (R574); the devices do not change. -/
theorem handleChk_cases (r : Fin 4) (devid : Nat) (s : State) :
    (devid ≠ 0 ∧ devid ≠ 1 ∧ handleChk r devid s = .next (s.writeGpr r 0#16)) ∨
    (∃ b, (devid = 0 ∧ kbdStatus s.dev = some b ∨ devid = 1 ∧ prtStatus s.dev = some b) ∧
      handleChk r devid s = .next (s.writeGpr r (statusWord b))) ∨
    (devid = 0 ∧ kbdStatus s.dev = none ∧ handleChk r devid s = .failed .kbdStatus s) ∨
    (devid = 1 ∧ prtStatus s.dev = none ∧ handleChk r devid s = .failed .prtStatus s) := by
  unfold handleChk
  split
  · cases kbdStatus s.dev with
    | some b => exact .inr (.inl ⟨b, .inl ⟨‹_›, rfl⟩, rfl⟩)
    | none => exact .inr (.inr (.inl ⟨‹_›, rfl, rfl⟩))
  · split
    · cases prtStatus s.dev with
      | some b => exact .inr (.inl ⟨b, .inr ⟨‹_›, rfl⟩, rfl⟩)
      | none => exact .inr (.inr (.inr ⟨‹_›, rfl, rfl⟩))
    · exact .inl ⟨‹_›, ‹_›, rfl⟩

@[simp] theorem Report.state_done (o : StepOutcome) (s : State) : (Report.done o s).state = s := rfl
@[simp] theorem Report.state_hostError (c : DeviceCall) (s : State) : (Report.hostError c s).state = s := rfl
@[simp] theorem RunEnd.state_halted (s : State) : (RunEnd.halted s).state = s := rfl
@[simp] theorem RunEnd.state_hostError (c : DeviceCall) (s : State) : (RunEnd.hostError c s).state = s := rfl
@[simp] theorem RunEnd.state_running (s : State) : (RunEnd.running s).state = s := rfl

/-- A run looked at for no step stands where it is (R810). -/
@[simp] theorem runSteps_nil (p : Config.Params) (s : State) : runSteps p [] s = .running s := rfl

/-- A run looked at for two stretches of steps is the second from where the first goes on, or the end of the
first (R810). -/
theorem runSteps_append (p : Config.Params) (a b : List (Devices → Devices)) (s : State) :
    runSteps p (a ++ b) s = match runSteps p a s with
      | .running u => runSteps p b u
      | .halted t => .halted t
      | .hostError c t => .hostError c t := by
  induction a generalizing s with
  | nil => rfl
  | cons e a ih =>
    simp only [List.cons_append, runSteps]
    split
    · rfl
    · exact ih _
    · exact ih _
    · rfl

/-! ### Arithmetic -/

/-- The signed sum, wrapped, is the sum of bit vectors (R444). -/
theorem addWord_eq (a b : Word) : addWord a b = a + b := by
  simp [addWord, BitVec.ofInt_add]

/-- The signed difference, wrapped, is the difference of bit vectors (R444). -/
theorem subWord_eq (a b : Word) : subWord a b = a - b := by
  apply BitVec.eq_of_toInt_eq
  simp [subWord, BitVec.toInt_sub, BitVec.toInt_ofInt]

/-! ### The canonical form of memory is kept -/

theorem memWrite_wf {n : Nat} (v : Word) {s : State} (w : s.mem.wf = true) (h : n < 2048) :
    (memWrite n v s).mem.wf = true := Memory.wf_write v w h

theorem memRead_mem {n : Int} {s t : State} {v : Word} (h : memRead n s = .ok v t) : t.mem = s.mem := by
  rcases memRead_cases n s with ⟨-, e⟩ | ⟨-, e⟩ <;> rw [e] at h <;> cases h
  rfl

theorem memRead_raised_mem {n : Int} {s t : State} {k : FaultKind} (h : memRead n s = .raised k t) :
    t.mem = s.mem := by
  rcases memRead_cases n s with ⟨-, e⟩ | ⟨-, e⟩ <;> rw [e] at h <;> cases h
  rfl

theorem storeWrite_wf {n : Int} {v : Word} {s t : State} (w : s.mem.wf = true)
    (h : storeWrite n v s = .ok () t) : t.mem.wf = true := by
  rcases storeWrite_cases n v s with ⟨hn, e⟩ | ⟨-, e⟩ | ⟨-, e⟩ <;> rw [e] at h <;> cases h
  exact memWrite_wf v w (by omega)

theorem storeWrite_raised_mem {n : Int} {v : Word} {s t : State} {k : FaultKind}
    (h : storeWrite n v s = .raised k t) : t.mem = s.mem := by
  rcases storeWrite_cases n v s with ⟨-, e⟩ | ⟨-, e⟩ | ⟨-, e⟩ <;> rw [e] at h <;> cases h <;> rfl

theorem fetch_mem {s t : State} (h : fetch s = .ok () t) : t.mem = s.mem := by
  rcases fetch_cases s with ⟨-, e⟩ | ⟨-, e⟩ <;> rw [e] at h <;> cases h
  rfl

theorem resolve_wf {f : EaFields} {s t : State} {ea : Word} (w : s.mem.wf = true)
    (h : resolve f s = .ok ea t) : t.mem.wf = true := by
  rcases resolve_cases f s with ⟨-, e⟩ | ⟨-, e⟩ <;> rw [e] at h
  · cases h; exact w
  · rw [memRead_mem h]; exact memWrite_wf _ w (by decide)

theorem resolve_raised_wf {f : EaFields} {s t : State} {k : FaultKind} (w : s.mem.wf = true)
    (h : resolve f s = .raised k t) : t.mem.wf = true := by
  rcases resolve_cases f s with ⟨-, e⟩ | ⟨-, e⟩ <;> rw [e] at h
  · cases h
  · rw [memRead_raised_mem h]; exact memWrite_wf _ w (by decide)

theorem recordTrap_wf (code : Nat) {s : State} (w : s.mem.wf = true) :
    (recordTrap code s).mem.wf = true :=
  memWrite_wf _ (memWrite_wf _ w (by decide)) (by decide)

theorem vectorLanes_wf {op : Word → Word → Word} {A B : Int} (n i : Nat) {s t : State} (w : s.mem.wf = true)
    (h : vectorLanes op A B n i s = .ok () t) : t.mem.wf = true := by
  induction n generalizing i s with
  | zero => cases h; exact w
  | succ n ih =>
    simp only [vectorLanes, Res.bind_eq_ok] at h
    obtain ⟨a, s1, e1, b, s2, e2, _, s3, e3, h⟩ := h
    refine ih (i + 1) (storeWrite_wf ?_ e3) h
    rw [memRead_mem e2, memRead_mem e1]; exact w

theorem vectorLanes_raised_wf {op : Word → Word → Word} {A B : Int} (n i : Nat) {s t : State} {k : FaultKind}
    (w : s.mem.wf = true) (h : vectorLanes op A B n i s = .raised k t) : t.mem.wf = true := by
  induction n generalizing i s with
  | zero => cases h
  | succ n ih =>
    simp only [vectorLanes, Res.bind_eq_raised] at h
    rcases h with e1 | ⟨a, s1, e1, e2 | ⟨b, s2, e2, e3 | ⟨_, s3, e3, h⟩⟩⟩
    · rw [memRead_raised_mem e1]; exact w
    · rw [memRead_raised_mem e2, memRead_mem e1]; exact w
    · rw [storeWrite_raised_mem e3, memRead_mem e2, memRead_mem e1]; exact w
    · refine ih (i + 1) (storeWrite_wf ?_ e3) h
      rw [memRead_mem e2, memRead_mem e1]; exact w

@[simp] theorem complete_mem (p : Config.Params) (r : Res Ending) :
    (complete p r).mem = match r with
      | .ok _ s => s.mem
      | .raised _ s => s.mem := by
  cases r with
  | ok e s => cases e <;> simp only [complete] <;> first | rfl | (split <;> rfl)
  | raised k s => cases k <;> rfl

theorem faultController_wf (p : Config.Params) {s : State} (w : s.mem.wf = true) :
    (faultController p s).mem.wf = true := by
  unfold faultController
  split
  · exact w
  · exact memWrite_wf _ (memWrite_wf _ w (by decide)) (by decide)

theorem loadPair_wf {n : Int} {v : Word} {s t : State} (w : s.mem.wf = true)
    (h : loadPair n v s = .next t) : t.mem.wf = true := by
  unfold loadPair at h
  split at h
  · rename_i hn
    have := inMemory_iff.1 hn
    cases h
    exact Memory.wf_write v w (by omega)
  · cases h

/-- Memory at reset is canonical. -/
theorem reset_mem_wf : State.reset.mem.wf = true := rfl

/-! ### The default parameters -/

/-- An opcode of the default map selects its own mnemonic (R330). -/
theorem mnemonicOf_opcodeMap (m : Mnemonic) : mnemonicOf Config.opcodeMap (Config.opcodeMap m) = some m := by
  cases m <;> rfl

/-- The default parameters meet the two constraints R9 puts on them. -/
theorem params_legal : Config.params.Legal where
  opcodeMap_injective m n h := by
    have hm := mnemonicOf_opcodeMap m
    rw [show Config.opcodeMap m = Config.opcodeMap n from h, mnemonicOf_opcodeMap n] at hm
    exact (Option.some.inj hm).symm
  linkReg_ne_paramReg := by decide

end Sys2Proof.Machine
end

