-- ==== Sys2Proof/Laws/PerInstr.lean ====
section
/-!
SUPPORT. What holds of every instruction's encoding, one lemma per constructor: the word's opcode field is the
opcode of its mnemonic and the ten bits below are its operand bits (spec/30_encoding.md R300).
-/

namespace Sys2Proof.Laws

/-- Bit `i` of an opcode over ten operand bits. -/
theorem getLsbD_word (op : BitVec 6) (x : BitVec 10) (i : Nat) :
    (op ++ x : Word).getLsbD i = if i < 10 then x.getLsbD i else op.getLsbD (i - 10) :=
  (BitVec.getLsbD_append (x := op) (y := x) (i := i)).trans (by by_cases h : i < 10 <;> simp [h])

theorem opcode_of_word (op : BitVec 6) (x : BitVec 10) : opcodeField (op ++ x : Word) = op := by
  apply BitVec.eq_of_getLsbD_eq
  intro i hi
  rw [opcodeField, BitVec.getLsbD_extractLsb', getLsbD_word, if_neg (by omega)]
  simp [hi]

/-- A field that lies below the opcode is a field of the operand bits. -/
theorem field_of_word (op : BitVec 6) (x : BitVec 10) (start len : Nat) (h : start + len ≤ 10) :
    (op ++ x : Word).extractLsb' start len = x.extractLsb' start len := by
  apply BitVec.eq_of_getLsbD_eq
  intro i hi
  rw [BitVec.getLsbD_extractLsb', getLsbD_word, if_pos (by omega), BitVec.getLsbD_extractLsb']

/-- The family: under every opcode map the two halves of the encoding are the opcode and the operand bits. -/
def EncodedFields.Statement (i : Instr) : Prop :=
  ∀ om : Mnemonic → BitVec 6, opcodeField (encodeWith om i) = om i.mnemonic ∧
    (encodeWith om i).extractLsb' 0 10 = operandBits i

theorem EncodedFields.of_any (i : Instr) : EncodedFields.Statement i := fun _ =>
  ⟨opcode_of_word _ _, (field_of_word _ _ 0 10 (Nat.le_refl 10)).trans BitVec.extractLsb'_eq_self⟩

theorem EncodedFields.hlt (unused : BitVec 10) :
    EncodedFields.Statement (.hlt unused) := EncodedFields.of_any _
theorem EncodedFields.ldr (r ix : Fin 4) (ind : Bool) (addr : Nat) :
    EncodedFields.Statement (.ldr r ix ind addr) := EncodedFields.of_any _
theorem EncodedFields.str (r ix : Fin 4) (ind : Bool) (addr : Nat) :
    EncodedFields.Statement (.str r ix ind addr) := EncodedFields.of_any _
theorem EncodedFields.lda (r ix : Fin 4) (ind : Bool) (addr : Nat) :
    EncodedFields.Statement (.lda r ix ind addr) := EncodedFields.of_any _
theorem EncodedFields.amr (r ix : Fin 4) (ind : Bool) (addr : Nat) :
    EncodedFields.Statement (.amr r ix ind addr) := EncodedFields.of_any _
theorem EncodedFields.smr (r ix : Fin 4) (ind : Bool) (addr : Nat) :
    EncodedFields.Statement (.smr r ix ind addr) := EncodedFields.of_any _
theorem EncodedFields.air (r ix : Fin 4) (ind : Bool) (immed : Nat) :
    EncodedFields.Statement (.air r ix ind immed) := EncodedFields.of_any _
theorem EncodedFields.sir (r ix : Fin 4) (ind : Bool) (immed : Nat) :
    EncodedFields.Statement (.sir r ix ind immed) := EncodedFields.of_any _
theorem EncodedFields.jz (r ix : Fin 4) (ind : Bool) (addr : Nat) :
    EncodedFields.Statement (.jz r ix ind addr) := EncodedFields.of_any _
theorem EncodedFields.jne (r ix : Fin 4) (ind : Bool) (addr : Nat) :
    EncodedFields.Statement (.jne r ix ind addr) := EncodedFields.of_any _
theorem EncodedFields.jcc (cc ix : Fin 4) (ind : Bool) (addr : Nat) :
    EncodedFields.Statement (.jcc cc ix ind addr) := EncodedFields.of_any _
theorem EncodedFields.jma (rx : BitVec 2) (ix : Fin 4) (ind : Bool) (addr : Nat) :
    EncodedFields.Statement (.jma rx ix ind addr) := EncodedFields.of_any _
theorem EncodedFields.jsr (rx : BitVec 2) (ix : Fin 4) (ind : Bool) (addr : Nat) :
    EncodedFields.Statement (.jsr rx ix ind addr) := EncodedFields.of_any _
theorem EncodedFields.rfs (rx : BitVec 2) (ix : Fin 4) (ind : Bool) (immed : Nat) :
    EncodedFields.Statement (.rfs rx ix ind immed) := EncodedFields.of_any _
theorem EncodedFields.sob (r ix : Fin 4) (ind : Bool) (addr : Nat) :
    EncodedFields.Statement (.sob r ix ind addr) := EncodedFields.of_any _
theorem EncodedFields.jge (r ix : Fin 4) (ind : Bool) (addr : Nat) :
    EncodedFields.Statement (.jge r ix ind addr) := EncodedFields.of_any _
theorem EncodedFields.mlt (rx ry : Fin 4) (unused : BitVec 6) :
    EncodedFields.Statement (.mlt rx ry unused) := EncodedFields.of_any _
theorem EncodedFields.dvd (rx ry : Fin 4) (unused : BitVec 6) :
    EncodedFields.Statement (.dvd rx ry unused) := EncodedFields.of_any _
theorem EncodedFields.trr (rx ry : Fin 4) (unused : BitVec 6) :
    EncodedFields.Statement (.trr rx ry unused) := EncodedFields.of_any _
theorem EncodedFields.and (rx ry : Fin 4) (unused : BitVec 6) :
    EncodedFields.Statement (.and rx ry unused) := EncodedFields.of_any _
theorem EncodedFields.orr (rx ry : Fin 4) (unused : BitVec 6) :
    EncodedFields.Statement (.orr rx ry unused) := EncodedFields.of_any _
theorem EncodedFields.not (rx : Fin 4) (unused : BitVec 8) :
    EncodedFields.Statement (.not rx unused) := EncodedFields.of_any _
theorem EncodedFields.trap (unused : BitVec 6) (code : Nat) :
    EncodedFields.Statement (.trap unused code) := EncodedFields.of_any _
theorem EncodedFields.src (r : Fin 4) (al lr : Bool) (unused : BitVec 2) (count : Nat) :
    EncodedFields.Statement (.src r al lr unused count) := EncodedFields.of_any _
theorem EncodedFields.rrc (r : Fin 4) (al lr : Bool) (unused : BitVec 2) (count : Nat) :
    EncodedFields.Statement (.rrc r al lr unused count) := EncodedFields.of_any _
theorem EncodedFields.fadd (fr ix : Fin 4) (ind : Bool) (addr : Nat) :
    EncodedFields.Statement (.fadd fr ix ind addr) := EncodedFields.of_any _
theorem EncodedFields.fsub (fr ix : Fin 4) (ind : Bool) (addr : Nat) :
    EncodedFields.Statement (.fsub fr ix ind addr) := EncodedFields.of_any _
theorem EncodedFields.vadd (fr ix : Fin 4) (ind : Bool) (addr : Nat) :
    EncodedFields.Statement (.vadd fr ix ind addr) := EncodedFields.of_any _
theorem EncodedFields.vsub (fr ix : Fin 4) (ind : Bool) (addr : Nat) :
    EncodedFields.Statement (.vsub fr ix ind addr) := EncodedFields.of_any _
theorem EncodedFields.cnvrt (r ix : Fin 4) (ind : Bool) (addr : Nat) :
    EncodedFields.Statement (.cnvrt r ix ind addr) := EncodedFields.of_any _
theorem EncodedFields.ldx (rx : BitVec 2) (ix : Fin 4) (ind : Bool) (addr : Nat) :
    EncodedFields.Statement (.ldx rx ix ind addr) := EncodedFields.of_any _
theorem EncodedFields.stx (rx : BitVec 2) (ix : Fin 4) (ind : Bool) (addr : Nat) :
    EncodedFields.Statement (.stx rx ix ind addr) := EncodedFields.of_any _
theorem EncodedFields.ldfr (fx ix : Fin 4) (ind : Bool) (addr : Nat) :
    EncodedFields.Statement (.ldfr fx ix ind addr) := EncodedFields.of_any _
theorem EncodedFields.stfr (fx ix : Fin 4) (ind : Bool) (addr : Nat) :
    EncodedFields.Statement (.stfr fx ix ind addr) := EncodedFields.of_any _
theorem EncodedFields.inp (r : Fin 4) (unused : BitVec 3) (devid : Nat) :
    EncodedFields.Statement (.inp r unused devid) := EncodedFields.of_any _
theorem EncodedFields.out (r : Fin 4) (unused : BitVec 3) (devid : Nat) :
    EncodedFields.Statement (.out r unused devid) := EncodedFields.of_any _
theorem EncodedFields.chk (r : Fin 4) (unused : BitVec 3) (devid : Nat) :
    EncodedFields.Statement (.chk r unused devid) := EncodedFields.of_any _

end Sys2Proof.Laws
end

