-- ==== Sys2Proof/Tests/Slice0.lean ====
section
/-!
SUPPORT. Tests: the well-formedness smoke test, the decoding of a word written out for every constructor, one-step
tests whose expected values are those of spec/95_test_vectors.md (its ids in the names), and for every
obligation with hypotheses a concrete case that meets them.
-/

namespace Sys2Proof.Tests

open Sys2Proof.Machine Sys2Proof.Safety

/-! ### Well-formedness: one ill-formed term per check, the bound itself accepted -/

theorem test_wf_address : (Instr.ldr 1 0 false 32).wellFormed = false ∧ (Instr.ldr 1 0 false 31).wellFormed = true := by
  decide
theorem test_wf_immediate : (Instr.air 1 0 false 32).wellFormed = false ∧ (Instr.air 1 0 false 31).wellFormed = true := by
  decide
theorem test_wf_device : (Instr.out 1 0 32).wellFormed = false ∧ (Instr.out 1 0 31).wellFormed = true := by decide
theorem test_wf_count : (Instr.src 1 true true 0 16).wellFormed = false ∧ (Instr.src 1 true true 0 15).wellFormed = true := by
  decide
theorem test_wf_trap_code : (Instr.trap 0 16).wellFormed = false ∧ (Instr.trap 0 15).wellFormed = true := by decide

/-! ### Decoding: each word written out field by field from R300 to R307 and R330 -/

theorem test_decode_load_store :
    decode 0b000001_01_10_1_10100#16 = .ok (.ldr 1 2 true 20) ∧
    decode 0b000010_10_01_0_11111#16 = .ok (.str 2 1 false 31) ∧
    decode 0b000011_11_00_1_00001#16 = .ok (.lda 3 0 true 1) ∧
    decode 0b100001_10_01_0_10100#16 = .ok (.ldx 2#2 1 false 20) ∧
    decode 0b100010_01_11_1_11110#16 = .ok (.stx 1#2 3 true 30) := by decide
theorem test_decode_arith :
    decode 0b000100_01_00_0_10100#16 = .ok (.amr 1 0 false 20) ∧
    decode 0b000101_10_11_1_00111#16 = .ok (.smr 2 3 true 7) ∧
    decode 0b000110_10_00_0_11111#16 = .ok (.air 2 0 false 31) ∧
    decode 0b000111_11_01_1_00001#16 = .ok (.sir 3 1 true 1) := by decide
theorem test_decode_branch :
    decode 0b001000_01_00_0_10100#16 = .ok (.jz 1 0 false 20) ∧
    decode 0b001001_10_01_1_10100#16 = .ok (.jne 2 1 true 20) ∧
    decode 0b001010_11_10_0_00101#16 = .ok (.jcc 3 2 false 5) ∧
    decode 0b001011_10_00_1_00010#16 = .ok (.jma 2#2 0 true 2) ∧
    decode 0b001100_01_11_0_10101#16 = .ok (.jsr 1#2 3 false 21) ∧
    decode 0b001101_11_01_0_00111#16 = .ok (.rfs 3#2 1 false 7) ∧
    decode 0b001110_01_00_0_01011#16 = .ok (.sob 1 0 false 11) ∧
    decode 0b001111_10_00_1_10000#16 = .ok (.jge 2 0 true 16) := by decide
theorem test_decode_register_pair :
    decode 0b010000_00_10_000000#16 = .ok (.mlt 0 2 0#6) ∧
    decode 0b010001_10_01_100001#16 = .ok (.dvd 2 1 33#6) := by decide
theorem test_decode_logic :
    decode 0b010010_01_10_000000#16 = .ok (.trr 1 2 0#6) ∧
    decode 0b010011_00_01_000001#16 = .ok (.and 0 1 1#6) ∧
    decode 0b010100_11_00_100000#16 = .ok (.orr 3 0 32#6) ∧
    decode 0b010101_10_10000001#16 = .ok (.not 2 0x81#8) := by decide
theorem test_decode_shift :
    decode 0b011001_01_1_0_00_0100#16 = .ok (.src 1 true false 0#2 4) ∧
    decode 0b011010_10_0_1_10_1111#16 = .ok (.rrc 2 false true 2#2 15) := by decide
theorem test_decode_trap_and_control :
    decode 0b011000_000010_0101#16 = .ok (.trap 2#6 5) ∧
    decode 0b000000_0000100101#16 = .ok (.hlt 37#10) := by decide
theorem test_decode_io :
    decode 0b110001_00_000_00000#16 = .ok (.inp 0 0#3 0) ∧
    decode 0b110010_01_100_00001#16 = .ok (.out 1 4#3 1) ∧
    decode 0b110011_10_000_11111#16 = .ok (.chk 2 0#3 31) := by decide
theorem test_decode_float_vector :
    decode 0b011011_01_00_0_10100#16 = .ok (.fadd 1 0 false 20) ∧
    decode 0b011100_00_01_1_10100#16 = .ok (.fsub 0 1 true 20) ∧
    decode 0b011101_00_00_0_11111#16 = .ok (.vadd 0 0 false 31) ∧
    decode 0b011110_01_10_0_10100#16 = .ok (.vsub 1 2 false 20) ∧
    decode 0b011111_01_00_0_00000#16 = .ok (.cnvrt 1 0 false 0) ∧
    decode 0b101000_01_00_0_10100#16 = .ok (.ldfr 1 0 false 20) ∧
    decode 0b101001_00_11_1_01001#16 = .ok (.stfr 0 3 true 9) := by decide
theorem test_decode_unassigned :
    decode 0b010110_0000000000#16 = .error (.unassignedOpcode 22) ∧
    decode 0b111111_0000000000#16 = .error (.unassignedOpcode 63) := by decide
theorem test_encode_words :
    encode (.stfr 1 0 false 20) = 0xA514#16 ∧ encode (.rrc 2 true true 0 4) = 0x6AC4#16 ∧
    encode (.jsr 0#2 0 true 21) = 0x3035#16 := by decide
theorem test_decodeTableWord :
    decodeTableWord 16 0x0514 = some (.ldr 1 0 false 20) ∧ decodeTableWord 16 0x5800 = none := by decide
theorem test_withFetchWord :
    (match step (State.reset.withFetchWord 16 0x1A1F) with
      | .next t => some (t.readGpr 2, t.pc)
      | .fault _ => none
      | .refused _ => none) = some (31#16, 1#12) := by decide

/-! ### One step -/

/-- The parameters of the vectors: FaultHandlerAddr 256, FCount 3, and stand-ins for the other OPEN functions. -/
def params : Config.Params := { Config.params with
  faultHandlerAddr := 256#12
  fAdd := fun a b => a <<< 8 ||| b
  fSub := fun a b => a <<< 4 ||| b
  fToInt := fun a => a + 1#16
  intToF := fun a => a + 2#16
  fCount := fun _ => 3 }

/-- After reset: the word at PC = 50, cells and registers as listed. -/
def start (w : Word) (gpr : Vector Word 4 := #v[0, 0, 0, 0]) (x1 : Word := 0) (cells : List (Nat × Word) := [])
    (cc : BitVec 4 := 0) (fr : Vector Word 2 := #v[0, 0]) (dev : Devices := Devices.reset) : State :=
  { State.reset with
    gpr := gpr
    x := #v[x1, 0, 0]
    fr := fr
    pc := 50
    cc := cc
    mem := (cells.foldl (fun m c => Memory.write m c.1 c.2) []).write 50 w
    dev := dev }

/-- The outcome, the PC and one view of the state after a step. -/
def after {α : Type} (f : State → α) (s : State) (p : Config.Params := params) : Option (StepOutcome × PcWord × α) :=
  match stepWith p s with
  | .done o t => some (o, t.pc, f t)
  | .hostError _ _ => none

theorem test_ldr_V3 : after (fun s => (s.readGpr 1, s.mem.read 6)) (start 0x0565 (x1 := 100) (cells := [(105, 7), (7, 0xAA)])) = some (.ok, 51, 0xAA, 105) := by decide
theorem test_ldr_V5_out_of_range : after (fun s => (s.readGpr 1, s.mem.read 1, s.mem.read 4)) (start 0x0540 (x1 := 2048) (gpr := #v[0, 9, 0, 0])) = some (.faulted .illegalAddress, 256, 9, 8, 0x100) := by decide
theorem test_str_V10_first_unprotected : after (·.mem.read 10) (start 0x080A (gpr := #v[0xFF, 0, 0, 0])) = some (.ok, 51, 0xFF) := by decide
theorem test_str_V11_last_protected : after (fun s => (s.mem.read 9, s.mem.read 1, s.mem.read 4)) (start 0x0809 (gpr := #v[0xFF, 0, 0, 0])) = some (.faulted .protectionViolation, 51, 0, 1, 0x33) := by decide
theorem test_lda_V15_unchecked : after (·.readGpr 2) (start 0x0E41 (x1 := 0xFFF0)) = some (.ok, 51, 0xFFF1) := by decide
theorem test_lda_W4_indirect : after (fun s => (s.readGpr 0, s.mem.read 6)) (start 0x0C65 (x1 := 100) (cells := [(105, 7)])) = some (.ok, 51, 7, 105) := by decide
theorem test_ldx_V18 : after (·.readX 0) (start 0x8445 (x1 := 100) (cells := [(105, 7), (5, 9)])) = some (.ok, 51, 7) := by decide
theorem test_ldx_V19_not_indexed : after (·.readX 0) (start 0x8445 (x1 := 100) (cells := [(105, 7), (5, 9)])) { params with ldxStxIndexed := false } = some (.ok, 51, 9) := by decide
theorem test_stx_V21 : after (·.mem.read 130) ({ start 0x889E with x := #v[0, 100, 0] }) = some (.ok, 51, 100) := by decide
theorem test_stx_V23_protected : after (fun s => (s.mem.read 5, s.mem.read 1)) (start 0x8840 (x1 := 5)) = some (.faulted .protectionViolation, 51, 0, 1) := by decide
theorem test_amr_V31_wraps : after (fun s => (s.readGpr 1, s.cc)) (start 0x1114 (gpr := #v[0, 0x7FFF, 0, 0]) (cells := [(20, 1)])) = some (.ok, 51, 0x8000, 0) := by decide
theorem test_smr_V33 : after (·.readGpr 1) (start 0x1514 (gpr := #v[0, 5, 0, 0]) (cells := [(20, 7)])) = some (.ok, 51, 0xFFFE) := by decide
theorem test_air_V43_raw_immediate : after (fun s => (s.readGpr 1, s.mem.read 6)) (start 0x1925 (gpr := #v[0, 1, 0, 0]) (cells := [(5, 0x900)])) = some (.ok, 51, 6, 5) := by decide
theorem test_sir_V41_wraps : after (·.readGpr 3) (start 0x1F01 (gpr := #v[0, 0, 0, 0x8000])) = some (.ok, 51, 0x7FFF) := by decide
theorem test_jz_V50 : after (·.readGpr 1) (start 0x2114) = some (.ok, 20, 0) := by decide
theorem test_jz_V53_not_taken_unchecked : after (·.readGpr 1) (start 0x2140 (gpr := #v[0, 1, 0, 0]) (x1 := 3000)) = some (.ok, 51, 1) := by decide
theorem test_jne_V54 : after (·.readGpr 1) (start 0x2514 (gpr := #v[0, 0x8000, 0, 0])) = some (.ok, 20, 0x8000) := by decide
theorem test_jcc_V56_consumes : after (·.cc) (start 0x2B14 (cc := 1)) = some (.ok, 20, 0) := by decide
theorem test_jcc_V58_fault_keeps_flag : after (·.cc) (start 0x2A40 (cc := 2) (x1 := 0xFFFF)) = some (.faulted .illegalAddress, 256, 2) := by decide
theorem test_jma_V61_pointer : after (·.mem.read 6) (start 0x2C22 (cells := [(2, 41)])) = some (.ok, 41, 2) := by decide
theorem test_jge_V63_zero : after (·.readGpr 2) (start 0x3E14) = some (.ok, 20, 0) := by decide
theorem test_jge_V65_negative : after (·.readGpr 2) (start 0x3E14 (gpr := #v[0, 0, 0x8000, 0])) = some (.ok, 51, 0x8000) := by decide
theorem test_jsr_V69 : after (fun s => (s.readGpr 3, s.readGpr 0)) (start 0x3035 (cells := [(21, 300)])) = some (.ok, 300, 51, 0x12D) := by decide
theorem test_jsr_V68_fault_writes_nothing : after (fun s => (s.readGpr 3, s.readGpr 0)) (start 0x3040 (x1 := 0xFFFF)) = some (.faulted .illegalAddress, 256, 0, 0) := by decide
theorem test_rfs_V71_twelve_bits : after (·.readGpr 0) (start 0x3400 (gpr := #v[9, 0, 0, 0x1005])) = some (.ok, 5, 0) := by decide
theorem test_sob_V73_no_decrement : after (·.readGpr 1) (start 0x3914 (gpr := #v[0, 3, 0, 0])) = some (.ok, 20, 3) := by decide
theorem test_mlt_V83 : after (fun s => (s.readGpr 2, s.readGpr 3)) (start 0x4200 (gpr := #v[3, 0, 0xFFFE, 0])) = some (.ok, 51, 0xFFFF, 0xFFFA) := by decide
theorem test_mlt_V87_high_unchanged : after (fun s => (s.readGpr 0, s.readGpr 1)) (start 0x4080 (gpr := #v[300, 0, 300, 0])) { params with mltHighWord := .unchanged } = some (.ok, 51, 300, 0x5F90) := by decide
theorem test_dvd_V90_truncates : after (fun s => (s.readGpr 0, s.readGpr 1)) (start 0x4480 (gpr := #v[0xFFF9, 0, 2, 0])) = some (.ok, 51, 0xFFFD, 0xFFFF) := by decide
theorem test_dvd_V89_by_zero : after (fun s => (s.readGpr 0, s.readGpr 1, s.cc)) (start 0x4480 (gpr := #v[17, 9, 0, 0])) = some (.ok, 51, 17, 9, 2) := by decide
theorem test_trr_V101_sticky : after (·.cc) (start 0x4980 (gpr := #v[0, 1, 2, 0]) (cc := 1)) = some (.ok, 51, 1) := by decide
theorem test_trr_V102_clears : after (·.cc) (start 0x4980 (gpr := #v[0, 1, 2, 0]) (cc := 1)) { params with trrClearsOnNe := true } = some (.ok, 51, 0) := by decide
theorem test_and_V104 : after (·.readGpr 0) (start 0x4C40 (gpr := #v[0x0F0F, 0x00FF, 0, 0])) = some (.ok, 51, 0x000F) := by decide
theorem test_orr_V107 : after (·.readGpr 3) (start 0x5300 (gpr := #v[1, 0, 0, 0x8000])) = some (.ok, 51, 0x8001) := by decide
theorem test_not_V109 : after (·.readGpr 1) (start 0x5500 (gpr := #v[0, 0x7FFF, 0, 0])) = some (.ok, 51, 0x8000) := by decide
theorem test_src_V110_arithmetic_right : after (·.readGpr 1) (start 0x6504 (gpr := #v[0, 0x8000, 0, 0])) = some (.ok, 51, 0xF800) := by decide
theorem test_src_V113_left : after (·.readGpr 1) (start 0x65CF (gpr := #v[0, 3, 0, 0])) = some (.ok, 51, 0x8000) := by decide
theorem test_rrc_V119_left : after (·.readGpr 2) (start 0x6A44 (gpr := #v[0, 0, 0x1234, 0])) = some (.ok, 51, 0x2341) := by decide
theorem test_rrc_V120_right : after (·.readGpr 2) (start 0x6A04 (gpr := #v[0, 0, 0x1234, 0])) = some (.ok, 51, 0x4123) := by decide
theorem test_trap_V130 : after (fun s => (s.mem.read 0, s.mem.read 2)) (start 0x6005) = some (.ok, 51, 5, 51) := by decide
theorem test_trap_V133_dispatch : after (fun s => (s.mem.read 0, s.mem.read 2)) (start 0x6002) { params with trapDispatch := some fun _ c => 500#12 + c.setWidth 12 } = some (.ok, 502, 2, 51) := by decide
theorem test_inp_V140 : after (fun s => (s.readGpr 0, s.dev.kbdReadDraws)) (start 0xC400 (dev := { Devices.reset with kbdReadDraws := [some 0x41] })) = some (.ok, 51, 0x41, []) := by decide
theorem test_inp_V149_fails : (match stepWith params (start 0xC400 (dev := { Devices.reset with kbdReadDraws := [none] })) with
    | .done _ _ => none
    | .hostError c t => some (c, t.pc, t.readGpr 0, t.mem.read 1)) = some (.kbdRead, 50#12, 0#16, 0#16) := by decide
theorem test_out_V143_low_byte : after (fun s => (s.readGpr 1, s.dev.printed)) (start 0xC901 (gpr := #v[0, 0x1241, 0, 0]) (dev := { Devices.reset with prtWriteDraws := [some ()] })) = some (.ok, 51, 0x1241, [0x41]) := by decide
theorem test_chk_V145_printer : after (fun s => (s.readGpr 2, s.dev.prtStatusDraws)) (start 0xCE01 (dev := { Devices.reset with prtStatusDraws := [some true] })) = some (.ok, 51, 1, [some true]) := by decide
theorem test_chk_V148_no_device : after (·.readGpr 3) (start 0xCF05 (gpr := #v[0, 0, 0, 9])) = some (.ok, 51, 0) := by decide
theorem test_fadd_V178 : after (·.readFr 0) (start 0x6C14 (fr := #v[1, 0]) (cells := [(20, 5)])) = some (.ok, 51, 0x105) := by decide
theorem test_fadd_V158_selector : after (fun s => (s.mem.read 1, s.mem.read 4)) (start 0x6E14) = some (.faulted .illegalOpcode, 51, 4, 0x33) := by decide
theorem test_fsub_V179 : after (·.readFr 1) (start 0x7114 (fr := #v[0, 1]) (cells := [(20, 5)])) = some (.ok, 51, 0x15) := by decide
theorem test_vadd_V163_running_sum : after (fun s => (s.mem.read 101, s.mem.read 102, s.mem.read 103)) (start 0x7414 (cells := [(20, 101), (21, 100), (100, 1), (101, 1), (102, 1), (103, 1)])) = some (.ok, 51, 2, 3, 4) := by decide
theorem test_vadd_V162_fault_keeps_lanes : after (fun s => (s.mem.read 2046, s.mem.read 2047, s.mem.read 1)) (start 0x7414 (cells := [(20, 2046), (21, 200), (2046, 1), (2047, 2), (200, 10), (201, 20), (202, 30)])) = some (.faulted .illegalAddress, 256, 11, 22, 8) := by decide
theorem test_vsub_V160 : after (fun s => (s.mem.read 100, s.mem.read 101, s.mem.read 102)) (start 0x7814 (cells := [(20, 100), (21, 200), (100, 1), (101, 2), (102, 3), (200, 10), (201, 20), (202, 30)])) = some (.ok, 51, 0xFFF7, 0xFFEE, 0xFFE5) := by decide
theorem test_cnvrt_V168_to_float : after (fun s => (s.readFr 0, s.readGpr 1)) (start 0x7D00 (gpr := #v[0, 7, 0, 0])) = some (.ok, 51, 9, 7) := by decide
theorem test_cnvrt_V169_to_integer : after (·.readGpr 1) (start 0x7D00 (fr := #v[5, 0])) = some (.ok, 51, 6) := by decide
theorem test_ldfr_V151_swapped : after (fun s => (s.readFr 0, s.readFr 1)) (start 0xA114 (cells := [(20, 0x1111), (21, 0x2222)])) = some (.ok, 51, 0x2222, 0x1111) := by decide
theorem test_stfr_V153_swapped : after (fun s => (s.mem.read 20, s.mem.read 21)) (start 0xA514 (fr := #v[0x1111, 0x2222])) = some (.ok, 51, 0x2222, 0x1111) := by decide
theorem test_stfr_V155_second_faults : after (fun s => (s.mem.read 2047, s.mem.read 1, s.mem.read 4)) (start 0xA440 (fr := #v[0x1111, 0x2222]) (x1 := 2047)) = some (.faulted .illegalAddress, 256, 0x1111, 8, 0x100) := by decide
theorem test_hlt_V176_resolver_runs : after (fun s => (s.halted, s.mem.read 6)) (start 0x0025 (cells := [(5, 3000)])) = some (.halt, 51, true, 5) := by decide
theorem test_hlt_V171_stays : after (·.halted) (start 0x0000) { params with hltAdvancesPc := false } = some (.halt, 50, true) := by decide
theorem test_illegal_V172 : after (fun s => (s.mem.read 1, s.mem.read 4)) (start 0x5800) = some (.faulted .illegalOpcode, 51, 4, 51) := by decide
theorem test_fetch_V180 : after (fun s => (s.ir, s.mem.read 1, s.mem.read 4)) ({ State.reset with pc := 2048, ir := 0x1234 }) = some (.faulted .illegalAddress, 256, 0x1234, 8, 0x100) := by decide
theorem test_load_V188 :
    let t := (hostLoad [(5, 1), (5, 2), (3, 9), (2048, 1)] State.reset).1
    (t.mem.read 5, t.mem.read 3) = (2#16, 9#16) ∧
    (hostLoad [(5, 1), (2048, 1), (-1, 1)] State.reset).2 = [2048, -1] := by decide

/-! ### Witnesses: for every obligation with hypotheses, a case that meets them, at the boundaries of its clauses -/

/-- X1 = 10, X2 = 2047, X3 = -1, so that a direct address `a` with ix = 2 or 3 is 2047 + a or a - 1; words 20 and 21
point at 2047 and 2048. -/
def w : State := { State.reset with
  gpr := #v[0, 7, 0x8000, 3]
  x := #v[10, 2047, 0xFFFF]
  fr := #v[1, 2]
  pc := 50
  cc := 10
  mem := [(20, 2047), (21, 2048)] }

/-- `w` with X2 = 2046. -/
def w2046 : State := { w with x := #v[10, 2046, 0xFFFF] }

/-- A direct instruction is ready in any state with MFR = 0. -/
theorem ready_direct {i : Instr} {s : State} (h : s.mfr = 0#4) (d : (fieldsOf Config.params i).indirect = false) :
    Ready i s := ⟨h, fun e => absurd (d.symm.trans e) (by decide)⟩

/-- An indirect instruction is ready when its pointer word exists. -/
theorem ready_indirect {i : Instr} {s : State} (h : s.mfr = 0#4)
    (p : 0 ≤ (preAddress (fieldsOf Config.params i) s).toInt ∧ (preAddress (fieldsOf Config.params i) s).toInt ≤ 2047) :
    Ready i s := ⟨h, fun _ => p⟩

theorem inv_w : Inv w := ⟨by decide, rfl⟩

theorem witness_DecodeInvertsEncodeUnderEveryOpcodeMap :
    (∀ m n, Config.opcodeMap m = Config.opcodeMap n → m = n) ∧ (Instr.ldr 3 3 true 31).wellFormed = true ∧
    (Instr.src 3 true true 3 15).wellFormed = true ∧ (Instr.chk 3 7 31).wellFormed = true :=
  ⟨params_legal.opcodeMap_injective, by decide⟩
theorem witness_EncodeInvertsDecode : decode 0xCFFF#16 = .ok (.chk 3 7#3 31) := by decide
theorem witness_TheOpcodeSelectsTheHandlerThroughTheOpcodeMap :
    (∀ m n, params.opcodeMap m = params.opcodeMap n → m = n) ∧
    (let s : State := { w with ir := 0x0514 }; params.opcodeMap .ldr = s.ir.extractLsb' 10 6) ∧
    (let s : State := { w with ir := 0x5800 }; ∀ m, params.opcodeMap m ≠ s.ir.extractLsb' 10 6) :=
  ⟨params_legal.opcodeMap_injective, by decide, fun m => by cases m <;> decide⟩
theorem witness_ImmediateTrapAndHaltWordsReadTheirFields :
    (∀ m n, Config.opcodeMap m = Config.opcodeMap n → m = n) ∧
    ((3 : Fin 4).val = ((0x1BBF#16).extractLsb' 8 2).toNat ∧ (2 : Fin 4).val = ((0x1BBF#16).extractLsb' 6 2).toNat ∧
      (0x1BBF#16).extractLsb' 10 6 = Config.opcodeMap .air) ∧ (0x1FBF#16).extractLsb' 10 6 = Config.opcodeMap .sir ∧
    (0x37BF#16).extractLsb' 10 6 = Config.opcodeMap .rfs ∧ (0x63FF#16).extractLsb' 10 6 = Config.opcodeMap .trap ∧
    (0x03FF#16).extractLsb' 10 6 = Config.opcodeMap .hlt :=
  ⟨params_legal.opcodeMap_injective, by decide⟩
theorem witness_ResolverReadsTheSameBitsInEveryFormat : decode 0x6BFF#16 = .ok (.rrc 3 true true 3#2 15) := by decide
theorem witness_ResolverComputesTheEffectiveAddress :
    PointerReadable ⟨0, false, 31⟩ w ∧ PointerReadable ⟨2, true, 0⟩ w ∧ ¬ PointerReadable ⟨2, true, 1⟩ w ∧
    ¬ PointerReadable ⟨3, true, 0⟩ w :=
  ⟨fun h => absurd h (by decide), fun _ => by unfold Addressable; decide,
    fun h => absurd (h rfl) (by unfold Addressable; decide), fun h => absurd (h rfl) (by unfold Addressable; decide)⟩
theorem witness_IndirectReadFaultComesBeforeTheHandler :
    w.mfr = 0#4 ∧ ¬ PointerReadable (fieldsOf Config.params (.hlt 0x0A1)) w ∧
    ¬ PointerReadable (fieldsOf params (.ldx 0#2 2 true 1)) w :=
  ⟨rfl, fun h => absurd (h rfl) (by unfold Addressable; decide),
    fun h => absurd (h rfl) (by unfold Addressable; decide)⟩
theorem witness_AccessesCheckTheRangeThenTheReservedSlots :
    (∀ n : Int, n = 0 ∨ n = 2047 → 0 ≤ n ∧ n ≤ 2047) ∧ (∀ n : Int, n = -1 ∨ n = 2048 → ¬ (0 ≤ n ∧ n ≤ 2047)) ∧
    (∀ n : Int, n = 0 ∨ n = 9 → 0 ≤ n ∧ n ≤ 9) ∧ (∀ n : Int, n = 10 ∨ n = 2047 → 10 ≤ n ∧ n ≤ 2047) := by
  refine ⟨?_, ?_, ?_, ?_⟩ <;> omega
theorem witness_AStoreThenALoadReadsTheStoredWords :
    (Inv w ∧ 10 ≤ (preAddress ⟨2, false, 0⟩ w).toInt ∧ (preAddress ⟨2, false, 0⟩ w).toInt ≤ 2047 ∧
      Addressable (preAddress ⟨0, false, 0⟩ w)) ∧
    (Inv w2046 ∧ (preAddress ⟨0, false, 10⟩ w2046).toInt = 10 ∧ (preAddress ⟨2, false, 0⟩ w2046).toInt = 2046) :=
  ⟨⟨inv_w, by decide, by decide, by unfold Addressable; decide⟩, ⟨by decide, rfl⟩, by decide⟩

theorem witness_LdrLoadsTheWordAtTheEffectiveAddress :
    (Ready (.ldr 1 0 false 0) w ∧ Addressable (eaOf (.ldr 1 0 false 0) w)) ∧ (Ready (.ldr 1 2 false 0) w ∧ Addressable (eaOf (.ldr 1 2 false 0) w)) ∧
    (Ready (.ldr 1 2 false 1) w ∧ ¬ Addressable (eaOf (.ldr 1 2 false 1) w)) ∧ (Ready (.ldr 1 3 false 0) w ∧ ¬ Addressable (eaOf (.ldr 1 3 false 0) w)) ∧
    (Ready (.ldr 1 0 true 20) w ∧ (eaOf (.ldr 1 0 true 20) w).toInt = 2047) :=
  ⟨⟨ready_direct rfl rfl, by unfold Addressable; decide⟩, ⟨ready_direct rfl rfl, by unfold Addressable; decide⟩,
    ⟨ready_direct rfl rfl, by unfold Addressable; decide⟩, ⟨ready_direct rfl rfl, by unfold Addressable; decide⟩, ⟨ready_indirect rfl (by decide), by decide⟩⟩
theorem witness_StrStoresTheRegisterOrFaults : Ready (.str 1 0 false 9) w := ready_direct rfl rfl
theorem witness_StrStoresTheRegisterOrFaults_addresses :
    (eaOf (.str 1 0 false 9) w).toInt = 9 ∧ (eaOf (.str 1 0 false 10) w).toInt = 10 ∧
    (eaOf (.str 1 2 false 0) w).toInt = 2047 ∧ (eaOf (.str 1 2 false 1) w).toInt = 2048 ∧
    (eaOf (.str 1 3 false 0) w).toInt = -1 := by decide
theorem witness_LdaLoadsTheAddressUnchecked : Ready (.lda 1 2 false 31) w := ready_direct rfl rfl
theorem witness_LdxAndStxMoveTheIndexRegister :
    Ready (.ldx 0#2 0 false 5) w ∧
    (Ready (.ldx 0#2 2 false 0) w ∧ (2 : Fin 4).val = (1 : Fin 3).val + 1 ∧ (eaOf (.ldx 0#2 2 false 0) w).toInt = 2047) ∧
    (Ready (.ldx 0#2 2 false 1) w ∧ ¬ Addressable (eaOf (.ldx 0#2 2 false 1) w)) ∧
    (Ready (.ldx 0#2 3 false 1) w ∧ (3 : Fin 4).val = (2 : Fin 3).val + 1 ∧ (eaOf (.ldx 0#2 3 false 1) w).toInt = 0) :=
  ⟨ready_direct rfl rfl, ⟨ready_direct rfl rfl, by decide, by decide⟩,
    ⟨ready_direct rfl rfl, by unfold Addressable; decide⟩, ⟨ready_direct rfl rfl, by decide, by decide⟩⟩
theorem witness_AdditionAndSubtractionWrapWithoutAFlag :
    (Ready (.amr 1 0 false 0) w ∧ Addressable (eaOf (.amr 1 0 false 0) w)) ∧ (Ready (.amr 1 2 false 0) w ∧ Addressable (eaOf (.amr 1 2 false 0) w)) ∧
    (Ready (.amr 1 2 false 1) w ∧ ¬ Addressable (eaOf (.amr 1 2 false 1) w)) ∧ (Ready (.amr 1 3 false 0) w ∧ ¬ Addressable (eaOf (.amr 1 3 false 0) w)) :=
  ⟨⟨ready_direct rfl rfl, by unfold Addressable; decide⟩, ⟨ready_direct rfl rfl, by unfold Addressable; decide⟩,
    ⟨ready_direct rfl rfl, by unfold Addressable; decide⟩, ⟨ready_direct rfl rfl, by unfold Addressable; decide⟩⟩
theorem witness_RegisterBranchesTestOneRegister :
    Ready (.jz 0 2 false 0) w ∧ w.readGpr 0 = 0#16 ∧ (w.readGpr 2).toInt < 0 ∧ 0 < (w.readGpr 1).toInt ∧
    (eaOf (.jz 0 2 false 0) w).toInt = 2047 ∧ (eaOf (.jz 0 2 false 1) w).toInt = 2048 :=
  ⟨ready_direct rfl rfl, by decide⟩
theorem witness_JccConsumesTheFlagItTests :
    Ready (.jcc 0 2 false 0) w ∧ w.cc.getMsbD 0 = true ∧ w.cc.getMsbD 3 = false ∧ Ready (.jcc 2 2 false 1) w ∧
    w.cc.getMsbD 2 = true ∧ (eaOf (.jcc 2 2 false 1) w).toInt = 2048 :=
  ⟨ready_direct rfl rfl, by decide, by decide, ready_direct rfl rfl, by decide, by decide⟩
theorem witness_JmaAlwaysTransfers :
    Ready (.jma 0#2 0 true 20) w ∧ (eaOf (.jma 0#2 0 true 20) w).toInt = 2047 ∧
    (eaOf (.jma 0#2 0 true 21) w).toInt = 2048 := ⟨ready_indirect rfl (by decide), by decide⟩
theorem witness_JsrWritesLinkAndParameter :
    Ready (.jsr 0#2 2 false 0) w ∧ (eaOf (.jsr 0#2 2 false 0) w).toInt = 2047 ∧ Ready (.jsr 0#2 3 false 0) w ∧
    (eaOf (.jsr 0#2 3 false 0) w).toInt = -1 :=
  ⟨ready_direct rfl rfl, by decide, ready_direct rfl rfl, by decide⟩
theorem witness_RfsReturnsThroughTheLinkRegister : Ready (.rfs 0#2 0 false 31) w := ready_direct rfl rfl
theorem witness_MltWritesTheExactProduct :
    Ready (.mlt 2 0 0#6) w ∧ Ready (.mlt 1 2 0#6) w ∧ Ready (.mlt 2 3 31#6) w :=
  ⟨ready_direct rfl rfl, ready_direct rfl rfl, ready_direct rfl rfl⟩
theorem witness_DvdWritesQuotientAndRemainderOrSetsCcTwo :
    (Ready (.dvd 0 2 0#6) w ∧ (w.readGpr 2).toInt ≠ 0) ∧ (Ready (.dvd 2 0 0#6) w ∧ (w.readGpr 0).toInt = 0) ∧
    Ready (.dvd 0 1 0#6) w :=
  ⟨⟨ready_direct rfl rfl, by decide⟩, ⟨ready_direct rfl rfl, by decide⟩, ready_direct rfl rfl⟩
theorem witness_DivisionTruncatesTowardZero :
    (0xFFFF#16 : Word) ≠ 0#16 ∧ 0 ≤ (7#16).toInt ∧ (0xFFF9#16).toInt ≤ 0 ∧ (0#16).toInt ≤ 0 ∧
    ¬ ((0x8000#16 : Word) = 0x8000#16 ∧ (1#16 : Word) = 0xFFFF#16) := by decide
theorem witness_TrrSetsCcThreeOnEquality :
    Ready (.trr 1 1 0#6) w ∧ w.readGpr 1 = w.readGpr 1 ∧ Ready (.trr 0 2 0#6) w ∧ w.readGpr 0 ≠ w.readGpr 2 :=
  ⟨ready_direct rfl rfl, rfl, ready_direct rfl rfl, by decide⟩
theorem witness_LogicInstructionsActBitwise : Ready (.and 1 2 0#6) w ∧ Ready (.not 1 0xDF#8) w :=
  ⟨ready_direct rfl rfl, ready_direct rfl rfl⟩
theorem witness_SrcShiftsByItsCount : Ready (.src 2 false false 0#2 15) w ∧ Ready (.src 2 true true 1#2 0) w :=
  ⟨ready_direct rfl rfl, ready_direct rfl rfl⟩
theorem witness_RrcRotatesByItsCount :
    Ready (.rrc 1 false true 0#2 15) w ∧ Ready (.rrc 1 true false 1#2 0) w ∧ (16 : Nat) ≤ 16 :=
  ⟨ready_direct rfl rfl, ready_direct rfl rfl, Nat.le_refl 16⟩
theorem witness_TrapRecordsCodeAndReturnAddress : Ready (.trap 0#6 15) w ∧ Ready (.trap 1#6 0) w :=
  ⟨ready_direct rfl rfl, ready_direct rfl rfl⟩

/-- `w` with every device queue headed by a reply. -/
def wReply : State := { w with dev := { Devices.reset with
  kbdStatusDraws := [some true], kbdReadDraws := [some 0x41], prtStatusDraws := [some false], prtWriteDraws := [some ()] } }

/-- `w` with every device queue headed by a failure. -/
def wFail : State := { w with dev := { Devices.reset with
  kbdStatusDraws := [none], kbdReadDraws := [none], prtStatusDraws := [none], prtWriteDraws := [none] } }

theorem witness_InReadsTheKeyboard :
    (Ready (.inp 0 0#3 0) wReply ∧ wReply.dev.kbdReadDraws.headD (Config.freeKbdRead 0) = some 0x41) ∧
    (Ready (.inp 0 0#3 0) wFail ∧ wFail.dev.kbdReadDraws.headD (Config.freeKbdRead 0) = none) ∧
    Ready (.inp 0 0#3 1) w :=
  ⟨⟨ready_direct rfl rfl, rfl⟩, ⟨ready_direct rfl rfl, rfl⟩, ready_direct rfl rfl⟩
theorem witness_OutHandsTheLowByteToThePrinter :
    (Ready (.out 1 0#3 1) wReply ∧ wReply.dev.prtWriteDraws.headD (Config.freePrtWrite 0) = some ()) ∧
    (Ready (.out 1 0#3 1) wFail ∧ wFail.dev.prtWriteDraws.headD (Config.freePrtWrite 0) = none) ∧
    Ready (.out 1 0#3 0) w ∧ Ready (.out 1 0#3 2) w :=
  ⟨⟨ready_direct rfl rfl, rfl⟩, ⟨ready_direct rfl rfl, rfl⟩, ready_direct rfl rfl, ready_direct rfl rfl⟩
theorem witness_ChkReadsTheDeviceStatus :
    (Ready (.chk 1 0#3 0) wReply ∧ wReply.dev.kbdStatusDraws.headD (Config.freeKbdStatus 0) = some true ∧
      wReply.dev.prtStatusDraws.headD (Config.freePrtStatus 0) = some false) ∧
    (Ready (.chk 1 0#3 1) wFail ∧ wFail.dev.kbdStatusDraws.headD (Config.freeKbdStatus 0) = none ∧
      wFail.dev.prtStatusDraws.headD (Config.freePrtStatus 0) = none) ∧
    Ready (.chk 1 0#3 2) w :=
  ⟨⟨ready_direct rfl rfl, rfl, rfl⟩, ⟨ready_direct rfl rfl, rfl, rfl⟩, ready_direct rfl rfl⟩
theorem witness_FaddAndFsubApplyTheConfiguredFunctions :
    (Ready (.fadd 1 0 false 0) w ∧ Addressable (eaOf (.fadd 1 0 false 0) w)) ∧ (Ready (.fadd 1 2 false 0) w ∧ Addressable (eaOf (.fadd 1 2 false 0) w)) ∧
    (Ready (.fadd 1 2 false 1) w ∧ ¬ Addressable (eaOf (.fadd 1 2 false 1) w)) ∧ (Ready (.fadd 1 3 false 0) w ∧ ¬ Addressable (eaOf (.fadd 1 3 false 0) w)) ∧
    (1 : Fin 4).val = (1 : Fin 2).val :=
  ⟨⟨ready_direct rfl rfl, by unfold Addressable; decide⟩, ⟨ready_direct rfl rfl, by unfold Addressable; decide⟩,
    ⟨ready_direct rfl rfl, by unfold Addressable; decide⟩, ⟨ready_direct rfl rfl, by unfold Addressable; decide⟩, rfl⟩
theorem witness_CnvrtConvertsInTheDirectionOfTheRegister :
    Ready (.cnvrt 0 0 false 0) w ∧ w.readGpr 0 = 0#16 ∧ Ready (.cnvrt 1 0 false 0) w ∧ w.readGpr 1 ≠ 0#16 :=
  ⟨ready_direct rfl rfl, by decide, ready_direct rfl rfl, by decide⟩

theorem witness_LdfrLoadsThePairInFxOrder :
    (Ready (.ldfr 0 0 false 0) w2046 ∧ (eaOf (.ldfr 0 0 false 0) w2046).toInt = 0) ∧
    (Ready (.ldfr 1 2 false 0) w2046 ∧ (eaOf (.ldfr 1 2 false 0) w2046).toInt = 2046) ∧
    (Ready (.ldfr 1 2 false 1) w2046 ∧ (eaOf (.ldfr 1 2 false 1) w2046).toInt = 2047) ∧
    (Ready (.ldfr 0 3 false 0) w2046 ∧ (eaOf (.ldfr 0 3 false 0) w2046).toInt = -1) :=
  ⟨⟨ready_direct rfl rfl, by decide⟩, ⟨ready_direct rfl rfl, by decide⟩, ⟨ready_direct rfl rfl, by decide⟩,
    ⟨ready_direct rfl rfl, by decide⟩⟩
theorem witness_StfrStoresThePairInFxOrder :
    (Ready (.stfr 0 0 false 10) w2046 ∧ (eaOf (.stfr 0 0 false 10) w2046).toInt = 10) ∧
    (Ready (.stfr 1 2 false 0) w2046 ∧ (eaOf (.stfr 1 2 false 0) w2046).toInt = 2046) ∧
    (Ready (.stfr 1 0 false 9) w2046 ∧ (eaOf (.stfr 1 0 false 9) w2046).toInt = 9) ∧
    (Ready (.stfr 0 2 false 1) w2046 ∧ (eaOf (.stfr 0 2 false 1) w2046).toInt = 2047) ∧
    (Ready (.stfr 0 2 false 2) w2046 ∧ ¬ Addressable (eaOf (.stfr 0 2 false 2) w2046)) :=
  ⟨⟨ready_direct rfl rfl, by decide⟩, ⟨ready_direct rfl rfl, by decide⟩, ⟨ready_direct rfl rfl, by decide⟩,
    ⟨ready_direct rfl rfl, by decide⟩, ⟨ready_direct rfl rfl, by unfold Addressable; decide⟩⟩
theorem witness_VaddAndVsubRunTheirLanesInOrder :
    (Ready (.vadd 1 2 false 0) w2046 ∧ (1 : Fin 4).val = (1 : Fin 2).val ∧ (eaOf (.vadd 1 2 false 0) w2046).toInt = 2046) ∧
    (Ready (.vadd 0 0 false 0) w2046 ∧ (eaOf (.vadd 0 0 false 0) w2046).toInt = 0) ∧
    (Ready (.vadd 0 2 false 1) w2046 ∧ (eaOf (.vadd 0 2 false 1) w2046).toInt = 2047) :=
  ⟨⟨ready_direct rfl rfl, by decide⟩, ⟨ready_direct rfl rfl, by decide⟩, ⟨ready_direct rfl rfl, by decide⟩⟩

/-- Two disjoint vectors of two elements: 2046 and 2047, 0 and 1; their bases at 20 and 21. -/
def wVectors : State := { w with mem := [(0, 5), (1, 6), (20, 2046), (2046, 7), (2047, 8)] }

theorem witness_DisjointVectorsAddElementwise :
    let p : Config.Params := { params with fCount := fun _ => 2 }
    Inv wVectors ∧ PointerReadable ⟨0, false, 20⟩ wVectors ∧ (0 : Fin 4).val = (0 : Fin 2).val ∧
    (effectiveAddress ⟨0, false, 20⟩ wVectors).toInt = 20 ∧ (wVectors.mem.read 20).toInt = 2046 ∧
    (wVectors.mem.read 21).toInt = 0 ∧ (p.fCount (wVectors.readFr 0)).toNat = 2 ∧
    (∀ k : Nat, k < 2 → laneRuns 2046 0 k = true) ∧ (∀ j k : Nat, j < 2 → k < 2 → (2046 + j : Int) ≠ 0 + k) :=
  ⟨⟨by decide, rfl⟩, fun h => absurd h (by decide), rfl, by decide, by decide, by decide, rfl, by decide,
    fun j k _ _ => by omega⟩
theorem witness_HltSetsHaltedAndAdvances : Ready (.hlt 0) w := ready_direct rfl rfl
theorem witness_UndefinedFloatSelectorsAreIllegal :
    Ready (.fadd 2 0 false 0) w ∧ 2 ≤ (2 : Fin 4).val ∧ Ready (.fadd 3 0 false 0) w ∧ 2 ≤ (3 : Fin 4).val :=
  ⟨ready_direct rfl rfl, by decide, ready_direct rfl rfl, by decide⟩

/-- The other values of the enumerated parameters. -/
def otherParams : Config.Params := { params with
  trapDispatch := some fun _ c => 500#12 + c.setWidth 12
  mltHighWord := .unchanged
  trrClearsOnNe := true
  cnvrtSource := .memory
  hltAdvancesPc := false
  ldxStxIndexed := false }

theorem witness_ArithmeticUnderTheOtherParameterValues :
    w.mfr = 0#4 ∧ otherParams.mltHighWord = .unchanged ∧ otherParams.trrClearsOnNe = true ∧
    otherParams.hltAdvancesPc = false ∧ w.readGpr 0 ≠ w.readGpr 2 ∧ PointerReadable (.ofRR 2 0#6) w ∧
    PointerReadable (.ofH 0) w :=
  ⟨rfl, rfl, rfl, rfl, by decide, fun h => absurd h (by decide), fun h => absurd h (by decide)⟩
theorem witness_AddressingUnderTheOtherParameterValues :
    w.mfr = 0#4 ∧ otherParams.ldxStxIndexed = false ∧ otherParams.cnvrtSource = .memory ∧
    otherParams.trapDispatch = some (fun _ c => 500#12 + c.setWidth 12) ∧ (3 : Fin 4).val = (2 : Fin 3).val + 1 ∧
    (PointerReadable ⟨0, true, 20⟩ w ∧ (effectiveAddress ⟨0, true, 20⟩ w).toInt = 2047) ∧
    (PointerReadable ⟨0, true, 21⟩ w ∧ ¬ Addressable (effectiveAddress ⟨0, true, 21⟩ w)) ∧
    (PointerReadable ⟨0, false, 10⟩ w ∧ (effectiveAddress ⟨0, false, 10⟩ w).toInt = 10) ∧
    (PointerReadable ⟨0, false, 9⟩ w ∧ (effectiveAddress ⟨0, false, 9⟩ w).toInt = 9) ∧
    PointerReadable (.ofT 0#6 15) w :=
  ⟨rfl, rfl, rfl, rfl, rfl, ⟨fun _ => by unfold Addressable; decide, by decide⟩,
    ⟨fun _ => by unfold Addressable; decide, by unfold Addressable; decide⟩,
    ⟨fun h => absurd h (by decide), by decide⟩, ⟨fun h => absurd h (by decide), by decide⟩,
    fun h => absurd h (by decide)⟩
theorem witness_StepRunsTheDecodedInstruction :
    let s : State := { w with pc := 2047, mem := [(2047, 0x0514)] }
    s.pc.toNat ≤ 2047 ∧ decode (s.mem.read s.pc.toNat) = .ok (.ldr 1 0 false 20) := by decide
theorem witness_StepOnAnUnassignedOpcodeTakesIllegalOpcode :
    let s : State := { w with mem := [(50, 0x5880)] }
    let u : State := { w with mem := [(50, 0x58A1)] }
    s.pc.toNat ≤ 2047 ∧ s.mfr = 0#4 ∧ decode (s.mem.read s.pc.toNat) = .error (.unassignedOpcode 22) ∧
    PointerReadable (.ofWord 0x5880) s ∧ decode (u.mem.read u.pc.toNat) = .error (.unassignedOpcode 22) ∧
    ¬ PointerReadable (.ofWord 0x58A1) u :=
  ⟨by decide, rfl, by decide, fun h => absurd h (by decide), by decide,
    fun h => absurd (h rfl) (by unfold Addressable; decide)⟩
theorem witness_FetchOutsideMemoryTakesIllegalAddress :
    let s : State := { w with pc := 2048 }
    2048 ≤ s.pc.toNat ∧ s.mfr = 0#4 := by decide
theorem witness_FaultControllerRecordsAndRedirects :
    w.mfr = 0#4 ∧ (w.setMfr 8).mfr ≠ 0#4 ∧ (w.setMfr 8).mfr.getMsbD 0 = true ∧ (w.setMfr 1).mfr ≠ 0#4 ∧
    (w.setMfr 1).mfr.getMsbD 0 = false := by decide
theorem witness_StepKeepsMemoryCanonicalAndMfrZero :
    (Inv State.reset ∧ ∃ t, step State.reset = .next t) ∧
    (Inv (wFail.withFetchWord 16 0xC400) ∧
      ∃ t, step (wFail.withFetchWord 16 0xC400) = .fault (.hostError .kbdRead t)) :=
  ⟨⟨⟨rfl, rfl⟩, _, rfl⟩, ⟨⟨by decide, rfl⟩, _, rfl⟩⟩
theorem witness_EveryChangeKeepsMemoryCanonicalAndMfrZero :
    Inv wFail ∧ Changes params wFail (hostSetPc 50 wFail) ∧
    (∃ t, executeIRWith params (wFail.setIr 0xC400) = .hostError .kbdRead t ∧ Changes params (wFail.setIr 0xC400) t) ∧
    Reachable params (hostSetPc 50 State.reset) :=
  ⟨⟨by decide, rfl⟩, .setPc 50, ⟨_, rfl, .executeIR⟩, .change .reset (.setPc 50)⟩
theorem witness_UnnamedReservedSlotsChangeOnlyByTheHost : Inv State.reset ∧ ∃ t, step State.reset = .next t :=
  ⟨⟨rfl, rfl⟩, _, rfl⟩
theorem witness_ProgramMemoryChangesOnlyByStoreInstructions :
    Inv w ∧ (∃ t, exec (.ldr 1 0 true 20) w = .next t) ∧ storesProgramData (Instr.ldr 1 0 true 20).mnemonic = false ∧
    (Instr.ldr 1 0 true 20).mnemonic ≠ .trap := ⟨inv_w, ⟨_, rfl⟩, by decide⟩
theorem witness_ConditionCodesChangeOnlyAsTheTableSays :
    (∃ t, exec (.trr 1 1 0#6) w = .next t ∧ w.cc.getMsbD 3 = false ∧ t.cc.getMsbD 3 = true) ∧
    (∃ t, exec (.jcc 0 0 false 20) w = .next t ∧ w.cc.getMsbD 0 = true ∧ t.cc.getMsbD 0 = false) :=
  ⟨⟨_, rfl, by decide⟩, ⟨_, rfl, by decide⟩⟩
theorem witness_ArithmeticFaultIsDvdByZeroAndSetsOnlyCcTwo :
    let u : State := { w with cc := 8 }
    (∃ t, exec (.dvd 2 0 0#6) u = .next t ∧ u.cc.getMsbD 2 = false ∧ t.cc.getMsbD 2 = true) ∧
    u.mfr = 0#4 ∧ PointerReadable (.ofRR 0 0#6) u ∧ PointerReadable (.ofRR 0 0x20#6) u ∧ u.readGpr 0 = 0#16 :=
  ⟨⟨_, rfl, by decide⟩, rfl, fun h => absurd h (by decide), fun _ => by unfold Addressable; decide, rfl⟩
theorem witness_RegisterFilesChangeOnlyByTheirInstructions :
    (∃ t, exec (.jma 0#2 0 false 20) w = .next t) ∧ writesGpr .jma = false ∧ writesFr .jma = false ∧
    callsDevice .jma = false ∧ Mnemonic.jma ≠ .ldx ∧ Mnemonic.jma ≠ .hlt := ⟨⟨_, rfl⟩, by decide⟩
theorem witness_OnlyAFailedDeviceCallStopsAStep :
    callsDevice (Instr.hlt 0).mnemonic = false ∧ ∃ r, step (wFail.withFetchWord 16 0xC400) = .fault r :=
  ⟨rfl, _, rfl⟩
theorem witness_AHandlerOutsideMemorySpins :
    let p : Config.Params := { params with faultHandlerAddr := 2048 }
    let s : State := { w with pc := 2048 }
    2048 ≤ p.faultHandlerAddr.toNat ∧ 2048 ≤ s.pc.toNat := by decide
theorem witness_TheTrapReturnIdiomReturns :
    let s : State := { w with pc := 2047, mem := [(2, 2047), (2047, 0x2C22)] }
    Inv s ∧ s.pc.toNat ≤ 2047 ∧ s.mem.read s.pc.toNat = 0x2C22#16 ∧ Addressable (s.mem.read 2) :=
  ⟨⟨by decide, rfl⟩, by decide, by decide, by unfold Addressable; decide⟩
theorem witness_LoadStoresThePairsVerbatim : w.mem.wf = true ∧ (2047 : Nat) < 2048 := by decide
theorem witness_RunEndsAtTheStepThatHalts :
    (∃ t, hostRun params [id] State.reset = .halted t) ∧
    (∃ t, stepWith params (((State.reset.withFetchWord 16 0x1A1F).setHalted false).setDev Devices.reset) = .done .ok t) ∧
    (∃ t, hostRun params [fun _ => wFail.dev] (State.reset.withFetchWord 16 0xC400) = .hostError .kbdRead t) :=
  ⟨⟨_, rfl⟩, ⟨_, rfl⟩, _, rfl⟩

end Sys2Proof.Tests
end

/-!
Agreement up to MAR and MBR, and how a handler's end looks up to it: the rules the statements in the
vocabulary of Sys2Proof/Safety.lean are proved by.
-/

namespace Sys2Proof.Machine

open Sys2Proof.Safety

/-! ### Agreement -/

/-- Two states agree exactly when one is the other with MAR and MBR replaced. -/
theorem agreesWith_iff_setBuffers {t u : State} : AgreesWith t u ↔ ∃ a v, t = u.setBuffers a v := by
  constructor
  · rintro ⟨hgpr, hx, hfr, hpc, hir, hcc, hmfr, hmem, hhalted, hdev⟩
    refine ⟨t.mar.toNat, t.mbr, ?_⟩
    cases t
    simp_all [State.setBuffers]
  · rintro ⟨a, v, rfl⟩
    constructor <;> rfl

theorem agreesWith_refl (s : State) : AgreesWith s s := by constructor <;> rfl

theorem agreesWith_setBuffers (a : Nat) (v : Word) (s : State) : AgreesWith (s.setBuffers a v) s :=
  agreesWith_iff_setBuffers.2 ⟨a, v, rfl⟩

theorem agreesWith_trans {s t u : State} (hst : AgreesWith s t) (htu : AgreesWith t u) :
    AgreesWith s u := by
  obtain ⟨a, v, rfl⟩ := agreesWith_iff_setBuffers.1 hst
  obtain ⟨b, w, rfl⟩ := agreesWith_iff_setBuffers.1 htu
  constructor <;> rfl

/-- An operation that neither reads nor writes MAR and MBR takes agreeing states to agreeing states. -/
theorem agreesWith_map (F : State → State) (hF : ∀ s a v, F (s.setBuffers a v) = (F s).setBuffers a v)
    {t u : State} (h : AgreesWith t u) : AgreesWith (F t) (F u) := by
  obtain ⟨a, v, rfl⟩ := agreesWith_iff_setBuffers.1 h
  rw [hF]
  exact agreesWith_setBuffers a v (F u)

/-- A write of memory, up to the buffers it sets (R109, R207). -/
theorem memWrite_agrees {t u : State} (n : Nat) (v : Word) (h : AgreesWith t u) :
    AgreesWith (memWrite n v t) (u.setMem (u.mem.write n v)) :=
  agreesWith_trans (agreesWith_setBuffers _ _ _)
    (agreesWith_map (fun s => s.setMem (s.mem.write n v)) (fun _ _ _ => rfl) h)

/-- Agreeing states hold the same general registers. -/
theorem readGpr_of_agrees {t u : State} (h : AgreesWith t u) (r : Fin 4) : t.readGpr r = u.readGpr r := by
  rw [State.readGpr, h.gpr]; rfl

/-- Agreeing states hold the same index registers. -/
theorem readX_of_agrees {t u : State} (h : AgreesWith t u) (k : Fin 3) : t.readX k = u.readX k := by
  rw [State.readX, h.x]; rfl

/-! ### The resolver (R310) -/

section
variable (f : EaFields) (s : State)

@[simp] theorem scratched_gpr : (scratched f s).gpr = s.gpr := by unfold scratched; split <;> rfl
@[simp] theorem scratched_x : (scratched f s).x = s.x := by unfold scratched; split <;> rfl
@[simp] theorem scratched_pc : (scratched f s).pc = s.pc := by unfold scratched; split <;> rfl
@[simp] theorem scratched_cc : (scratched f s).cc = s.cc := by unfold scratched; split <;> rfl
@[simp] theorem scratched_mfr : (scratched f s).mfr = s.mfr := by unfold scratched; split <;> rfl
@[simp] theorem readGpr_scratched (r : Fin 4) : (scratched f s).readGpr r = s.readGpr r := by
  simp [State.readGpr]
@[simp] theorem readX_scratched (k : Fin 3) : (scratched f s).readX k = s.readX k := by
  simp [State.readX]

/-- The model's indexed address is the one R310 says. -/
theorem indexedAddress_eq_preAddress : indexedAddress f s = preAddress f s := by
  obtain ⟨ix, ind, addr⟩ := f
  match ix with
  | 0 | 1 | 2 | 3 => rfl

end

theorem memRead_of_addressable {ea : Word} (h : Addressable ea) (s : State) :
    memRead (s16 ea) s = .ok (s.mem.read ea.toNat) (s.setBuffers ea.toNat (s.mem.read ea.toNat)) := by
  rw [← s16_toNat h.1]
  exact if_pos (inMemory_iff.2 h)

theorem memRead_of_not_addressable {ea : Word} (h : ¬ Addressable ea) (s : State) :
    memRead (s16 ea) s = raise .illegalAddress s :=
  if_neg fun e => h (inMemory_iff.1 e)

/-- With a readable pointer the resolver yields the effective address and leaves the scratch slot written. -/
theorem resolve_of_pointerReadable {f : EaFields} {s : State} (hp : PointerReadable f s) :
    ∃ t, resolve f s = .ok (effectiveAddress f s) t ∧ AgreesWith t (scratched f s) := by
  rcases resolve_cases f s with ⟨hi, e⟩ | ⟨hi, e⟩ <;>
    simp only [e, effectiveAddress, scratched, hi, indexedAddress_eq_preAddress, if_true,
      Bool.false_eq_true, if_false]
  case inl => exact ⟨s, rfl, agreesWith_refl s⟩
  case inr =>
    rw [memRead_of_addressable (hp hi)]
    exact ⟨_, rfl, agreesWith_trans (agreesWith_setBuffers _ _ _) (memWrite_agrees 6 _ (agreesWith_refl s))⟩

/-! ### The end of a handler (R352, R710) -/

theorem faultController_of_mfr_zero (p : Config.Params) {s : State} (h : s.mfr = 0#4) :
    faultController p s = s := if_pos h

theorem faultController_of_mfr_ne_zero (p : Config.Params) {s : State} (h : s.mfr ≠ 0#4) :
    AgreesWith (faultController p s)
      { s with
        mem := (s.mem.write 1 (mfrSnapshot s.mfr)).write 4 (pcSnapshot (redirectedPc p s))
        pc := redirectedPc p s
        mfr := 0#4 } := by
  rw [faultController, if_neg h]
  constructor <;> rfl

/-- A fault raised with MFR = 0 is handled within the step as R701, R710 and R712 say. -/
theorem finish_raise (p : Config.Params) (k : FaultKind) {s : State} (hs : s.mfr = 0#4) :
    ∃ t, finish p (raise k s) = .done (.faulted k) t ∧ AgreesWith t (faulted p k s) := by
  have hmfr : (complete p (raise k s)).mfr = mfrRaise k 0#4 := by rw [← hs]; cases k <;> rfl
  have hne : (complete p (raise k s)).mfr ≠ 0#4 := by rw [hmfr]; cases k <;> decide
  refine ⟨_, rfl, ?_⟩
  have h := faultController_of_mfr_ne_zero p hne
  simp only [redirectedPc, hmfr] at h
  cases k <;> exact h

/-- Under parameters `p` the handler's result `r` ends the step with outcome `o`, in the state `u` up to MAR
and MBR. -/
def Ends (p : Config.Params) (r : Res Ending) (o : StepOutcome) (u : State) : Prop :=
  ∃ t, finish p r = .done o t ∧ AgreesWith t u

section
variable {p : Config.Params} {t u : State}

/-- The end of a handler that raised nothing: the completed state, no fault being there to handle. -/
theorem ends_ok {e : Ending} (h : AgreesWith (complete p (.ok e t)) u) (hu : u.mfr = 0#4) :
    Ends p (.ok e t) (outcomeOf (.ok e t)) u :=
  ⟨_, congrArg (Report.done _) (faultController_of_mfr_zero p (h.mfr.trans hu)), h⟩

theorem ends_next (h : AgreesWith t u) (hu : u.mfr = 0#4) : Ends p (.ok .next t) .ok u.advancePc :=
  ends_ok (agreesWith_map State.advancePc (fun _ _ _ => rfl) h) hu

theorem ends_jump (pc : PcWord) (h : AgreesWith t u) (hu : u.mfr = 0#4) :
    Ends p (.ok (.jump pc) t) .ok (u.setPc pc) :=
  ends_ok (agreesWith_map (State.setPc · pc) (fun _ _ _ => rfl) h) hu

theorem ends_halt_of_not_advances (hp : p.hltAdvancesPc = false) (h : AgreesWith t u) (hu : u.mfr = 0#4) :
    Ends p (.ok .halt t) .halt (u.setHalted true) := by
  refine ends_ok ?_ hu
  rw [complete, hp]
  exact agreesWith_map (State.setHalted · true) (fun _ _ _ => rfl) h

theorem ends_raise (k : FaultKind) (h : AgreesWith t u) (hu : u.mfr = 0#4) :
    Ends p (raise k t) (.faulted k) (faulted p k u) := by
  obtain ⟨v, hfin, hv⟩ := finish_raise p k (h.mfr.trans hu)
  exact ⟨v, hfin, agreesWith_trans hv (agreesWith_map (faulted p k) (fun _ _ _ => rfl) h)⟩

/-- A handler that goes on after a read of an existing address. -/
theorem ends_memRead_bind {ea : Word} {g : Word → State → Res Ending} {o : StepOutcome} {v : State}
    (h : AgreesWith t u) (ha : Addressable ea)
    (hg : ∀ t', AgreesWith t' u → Ends p (g (u.mem.read ea.toNat) t') o v) :
    Ends p ((memRead (s16 ea) t).bind g) o v := by
  rw [memRead_of_addressable ha, Res.ok_bind, h.mem]
  exact hg _ (agreesWith_trans (agreesWith_setBuffers _ _ _) h)

/-- A handler whose read is of a missing address. -/
theorem ends_memRead_bind_missing {ea : Word} {g : Word → State → Res Ending}
    (h : AgreesWith t u) (hu : u.mfr = 0#4) (ha : ¬ Addressable ea) :
    Ends p ((memRead (s16 ea) t).bind g) (.faulted .illegalAddress) (faulted p .illegalAddress u) := by
  rw [memRead_of_not_addressable ha, raise_bind]
  exact ends_raise _ h hu

/-- A handler that goes on after a store at an address past the reserved slots (R208). -/
theorem ends_storeWrite_bind {ea w : Word} {g : Unit → State → Res Ending} {o : StepOutcome} {v : State}
    (h : AgreesWith t u) (ha : 10 ≤ ea.toInt ∧ ea.toInt ≤ 2047)
    (hg : ∀ t', AgreesWith t' (u.setMem (u.mem.write ea.toNat w)) → Ends p (g () t') o v) :
    Ends p ((storeWrite (s16 ea) w t).bind g) o v := by
  rcases storeWrite_cases ea.toInt w t with ⟨-, e⟩ | ⟨hn, -⟩ | ⟨hn, -⟩
  · rw [e, Res.ok_bind, s16_toNat (by omega)]
    exact hg _ (memWrite_agrees _ _ h)
  · exact absurd hn.2 (by omega)
  · exact absurd ⟨by omega, ha.2⟩ hn

/-- A handler whose store is to a reserved slot (R208). -/
theorem ends_storeWrite_bind_reserved {ea w : Word} {g : Unit → State → Res Ending}
    (h : AgreesWith t u) (hu : u.mfr = 0#4) (ha : 0 ≤ ea.toInt ∧ ea.toInt ≤ 9) :
    Ends p ((storeWrite (s16 ea) w t).bind g) (.faulted .protectionViolation)
      (faulted p .protectionViolation u) := by
  rcases storeWrite_cases ea.toInt w t with ⟨hn, -⟩ | ⟨-, e⟩ | ⟨hn, -⟩
  · exact absurd hn.1 (by omega)
  · rw [e, raise_bind]
    exact ends_raise _ h hu
  · exact absurd ⟨ha.1, by omega⟩ hn

/-- A handler whose store is to a missing address (R208). -/
theorem ends_storeWrite_bind_missing {ea w : Word} {g : Unit → State → Res Ending}
    (h : AgreesWith t u) (hu : u.mfr = 0#4) (ha : ¬ Addressable ea) :
    Ends p ((storeWrite (s16 ea) w t).bind g) (.faulted .illegalAddress)
      (faulted p .illegalAddress u) := by
  rcases storeWrite_cases ea.toInt w t with ⟨hn, -⟩ | ⟨hn, -⟩ | ⟨-, e⟩
  · exact absurd ⟨by omega, hn.2⟩ ha
  · exact absurd ⟨hn.1, by omega⟩ ha
  · rw [e, raise_bind]
    exact ends_raise _ h hu

end

/-- An instruction whose pointer is readable reports what its handler ends with, run on the effective address
in the state the resolver leaves (R350). -/
theorem reportsWith_of_handler {p : Config.Params} {i : Instr} {s u : State} {f : EaFields}
    {h : Word → State → Res Ending} {o : StepOutcome} (hi : reportWith p i s = runHandler p f h s)
    (hp : PointerReadable f s)
    (hh : ∀ t, AgreesWith t (scratched f s) → Ends p (h (effectiveAddress f s) t) o u) :
    ReportsWith p i s o u := by
  obtain ⟨t, e, ht⟩ := resolve_of_pointerReadable hp
  obtain ⟨v, hfin, hv⟩ := hh t ht
  refine ⟨v, ?_, hv⟩
  rw [hi, runHandler, e, Res.ok_bind, hfin]

end Sys2Proof.Machine

/-!
The statements about the parameters of spec/00_scope.md R9: `exec` and `step` take the defaults, and
the instructions under the other values.
-/

namespace Sys2Proof.Machine

open Sys2Proof.Safety

/-! ### The default parameters -/

/-- `exec` is the parametric execution at the default parameters. -/
theorem exec_eq_execWith (i : Instr) (s : State) : exec i s = execWith Config.params i s := by
  cases i <;> rfl

/-- `ExecuteIR` of a word that decodes runs its instruction (R350, R353). -/
theorem executeIRWith_of_decode {p : Config.Params} {s : State} {i : Instr}
    (h : decodeWith p.opcodeMap s.ir = .ok i) : executeIRWith p s = reportWith p i s := by
  rw [executeIRWith, h]

/-- `ExecuteIR` of a word with an unassigned opcode runs the illegal-opcode handler (R320, R353). -/
theorem executeIRWith_of_unassigned {p : Config.Params} {s : State} {e : DecodeError}
    (h : decodeWith p.opcodeMap s.ir = .error e) : executeIRWith p s = reportIllegal p s.ir s := by
  rw [executeIRWith, h]

/-- `step` is the parametric step at the default parameters, its outcome dropped. -/
theorem step_eq_toHost_stepWith (s : State) : step s = (stepWith Config.params s).toHost := by
  rw [step, stepWith]
  cases fetch s with
  | raised k s1 => rfl
  | ok _ s1 =>
    dsimp only
    cases h : decode s1.ir with
    | ok i => rw [executeIRWith_of_decode (p := Config.params) h]; exact exec_eq_execWith i s1
    | error e => rw [executeIRWith_of_unassigned (p := Config.params) h]

/-- Settles O47: constructor by constructor for `exec`, along fetch and decode for `step`. -/
theorem stepIsTheParametricStepAtTheDefaults : Obligations.StepIsTheParametricStepAtTheDefaults :=
  ⟨exec_eq_execWith, step_eq_toHost_stepWith⟩

/-! ### The handlers of MLT and TRR under the other values -/

/-- The low word of the 32-bit product is the exact product modulo 2^16 (R501). -/
theorem product_low (a b : Word) :
    (product a b).extractLsb' 0 16 = BitVec.ofInt 16 (a.toInt * b.toInt) := by
  rw [product, ← BitVec.setWidth_eq_extractLsb' (by decide)]
  apply BitVec.eq_of_toNat_eq
  simp only [BitVec.toNat_setWidth, BitVec.toNat_ofInt]
  generalize a.toInt * b.toInt = n
  omega

theorem evenPair_iff {rx ry : Fin 4} : evenPair rx ry = true ↔ (rx = 0 ∨ rx = 2) ∧ (ry = 0 ∨ ry = 2) :=
  decide_eq_true_iff

/-- MLT on even selectors under `MltHighWord = UNCHANGED` writes only the low product word (R501). -/
theorem handleMlt_unchanged {p : Config.Params} {rx ry : Fin 4} (hp : p.mltHighWord = .unchanged)
    (hpair : evenPair rx ry = true) (ea : Word) (s : State) :
    handleMlt p rx ry ea s = .ok .next
      (s.writeGpr (rx + 1) (BitVec.ofInt 16 ((s.readGpr rx).toInt * (s.readGpr ry).toInt))) := by
  simp only [handleMlt, hpair, hp, product_low, if_true]

/-- Bit `i` of a four-flag register, in the numbering of R11. -/
theorem getMsbD_flagBit (i j : Fin 4) : (flagBit i).getMsbD j = decide (j = i) := by
  revert i j; decide

/-- Clearing a flag clears that bit and no other. -/
theorem getMsbD_flagClear (c : BitVec 4) (i j : Fin 4) :
    (flagClear c i).getMsbD j = (decide (j ≠ i) && c.getMsbD j) := by
  simp [flagClear, getMsbD_flagBit, Bool.and_comm]

theorem ccCompare_clears_of_ne {a b : Word} (h : a ≠ b) (cc : BitVec 4) :
    ccCompare true a b cc = flagClear cc 3 := by
  rw [ccCompare, if_neg h, if_pos rfl]

section
variable {p : Config.Params} {s : State}

theorem reportsWith_mlt_unchanged {rx ry : Fin 4} {u : BitVec 6} (hs : s.mfr = 0#4)
    (hp : p.mltHighWord = .unchanged) (hpair : evenPair rx ry = true)
    (hr : PointerReadable (.ofRR ry u) s) :
    ReportsWith p (.mlt rx ry u) s .ok
      ((scratched (.ofRR ry u) s).writeGpr (rx + 1)
        (BitVec.ofInt 16 ((s.readGpr rx).toInt * (s.readGpr ry).toInt))).advancePc := by
  refine reportsWith_of_handler rfl hr fun t ht => ?_
  rw [handleMlt_unchanged hp hpair, readGpr_of_agrees ht, readGpr_of_agrees ht, readGpr_scratched,
    readGpr_scratched]
  exact ends_next (agreesWith_map (State.writeGpr · _ _) (fun _ _ _ => rfl) ht) (by simpa using hs)

theorem reportsWith_trr_clears {rx ry : Fin 4} {u : BitVec 6} (hs : s.mfr = 0#4)
    (hp : p.trrClearsOnNe = true) (hne : s.readGpr rx ≠ s.readGpr ry)
    (hr : PointerReadable (.ofRR ry u) s) :
    ReportsWith p (.trr rx ry u) s .ok
      ((scratched (.ofRR ry u) s).setCc (flagClear s.cc 3)).advancePc := by
  refine reportsWith_of_handler rfl hr fun t ht => ?_
  rw [handleTrr, hp, readGpr_of_agrees ht, readGpr_of_agrees ht, readGpr_scratched,
    readGpr_scratched, ccCompare_clears_of_ne hne, ht.cc, scratched_cc]
  exact ends_next (agreesWith_map (State.setCc · _) (fun _ _ _ => rfl) ht) (by simpa using hs)

theorem reportsWith_hlt_stays {v : BitVec 10} (hs : s.mfr = 0#4) (hp : p.hltAdvancesPc = false)
    (hr : PointerReadable (.ofH v) s) :
    ReportsWith p (.hlt v) s .halt ((scratched (.ofH v) s).setHalted true) :=
  reportsWith_of_handler rfl hr fun _ ht => ends_halt_of_not_advances hp ht (by simpa using hs)

end

/-- Settles O41: one report per instruction. -/
theorem arithmeticUnderTheOtherParameterValues : Obligations.ArithmeticUnderTheOtherParameterValues := by
  intro p rx ry u v s hs
  refine ⟨fun hp hx hy hr => ?mlt, fun hp hne hr => ⟨flagClear s.cc 3, ?bits, ?trr⟩, fun hp hr => ?hlt⟩
  case mlt => exact reportsWith_mlt_unchanged hs hp (evenPair_iff.2 ⟨hx, hy⟩) hr
  case bits => exact getMsbD_flagClear s.cc 3
  case trr => exact reportsWith_trr_clears hs hp hne hr
  case hlt => exact reportsWith_hlt_stays hs hp hr

/-! ### LDX and STX without the index register -/

theorem ofIndexOp_of_not_indexed {p : Config.Params} (hp : p.ldxStxIndexed = false) (ix : Fin 4)
    (ind : Bool) (addr : Nat) : EaFields.ofIndexOp p ix ind addr = ⟨0, ind, addr⟩ := by
  simp [EaFields.ofIndexOp, hp]

theorem handleLdx_zero (ea : Word) (s : State) : handleLdx 0 ea s = .ok .next s := rfl

theorem handleStx_zero (ea : Word) (s : State) : handleStx 0 ea s = .ok .next s := rfl

theorem handleLdx_of_slot {ix : Fin 4} {k : Fin 3} (hk : ix.val = k.val + 1) (ea : Word) (s : State) :
    handleLdx ix ea s = (memRead (s16 ea) s).bind fun v s => .ok .next (s.writeX k v) := by
  rw [handleLdx, xSlot_eq_some.2 hk]

theorem handleStx_of_slot {ix : Fin 4} {k : Fin 3} (hk : ix.val = k.val + 1) (ea : Word) (s : State) :
    handleStx ix ea s = (storeWrite (s16 ea) (s.readX k) s).bind fun _ s => .ok .next s := by
  rw [handleStx, xSlot_eq_some.2 hk]

section
variable {p : Config.Params} {rx : BitVec 2} {ix : Fin 4} {ind : Bool} {addr : Nat} {s : State}
  {f : EaFields} {k : Fin 3}

/-- LDX with selector 0 does nothing (R404). -/
theorem reportsWith_ldx_zero (hs : s.mfr = 0#4) (hf : EaFields.ofIndexOp p 0 ind addr = f)
    (hr : PointerReadable f s) :
    ReportsWith p (.ldx rx 0 ind addr) s .ok (scratched f s).advancePc := by
  subst hf
  refine reportsWith_of_handler rfl hr fun t ht => ?_
  rw [handleLdx_zero]
  exact ends_next ht (by simpa using hs)

/-- STX with selector 0 does nothing (R405). -/
theorem reportsWith_stx_zero (hs : s.mfr = 0#4) (hf : EaFields.ofIndexOp p 0 ind addr = f)
    (hr : PointerReadable f s) :
    ReportsWith p (.stx rx 0 ind addr) s .ok (scratched f s).advancePc := by
  subst hf
  refine reportsWith_of_handler rfl hr fun t ht => ?_
  rw [handleStx_zero]
  exact ends_next ht (by simpa using hs)

/-- LDX loads the word at an existing address (R404). -/
theorem reportsWith_ldx (hs : s.mfr = 0#4) (hf : EaFields.ofIndexOp p ix ind addr = f)
    (hr : PointerReadable f s) (hk : ix.val = k.val + 1) (ha : Addressable (effectiveAddress f s)) :
    ReportsWith p (.ldx rx ix ind addr) s .ok
      ((scratched f s).writeX k ((scratched f s).mem.read (effectiveAddress f s).toNat)).advancePc := by
  subst hf
  refine reportsWith_of_handler rfl hr fun t ht => ?_
  rw [handleLdx_of_slot hk]
  refine ends_memRead_bind ht ha fun t' ht' => ?_
  exact ends_next (agreesWith_map (State.writeX · k _) (fun _ _ _ => rfl) ht') (by simpa using hs)

/-- LDX at a missing address raises IllegalAddress (R404). -/
theorem reportsWith_ldx_missing (hs : s.mfr = 0#4) (hf : EaFields.ofIndexOp p ix ind addr = f)
    (hr : PointerReadable f s) (hk : ix.val = k.val + 1) (ha : ¬ Addressable (effectiveAddress f s)) :
    ReportsWith p (.ldx rx ix ind addr) s (.faulted .illegalAddress)
      (faulted p .illegalAddress (scratched f s)) := by
  subst hf
  refine reportsWith_of_handler rfl hr fun t ht => ?_
  rw [handleLdx_of_slot hk]
  exact ends_memRead_bind_missing ht (by simpa using hs) ha

/-- STX stores the index register past the reserved slots (R208, R405). -/
theorem reportsWith_stx (hs : s.mfr = 0#4) (hf : EaFields.ofIndexOp p ix ind addr = f)
    (hr : PointerReadable f s) (hk : ix.val = k.val + 1)
    (ha : 10 ≤ (effectiveAddress f s).toInt ∧ (effectiveAddress f s).toInt ≤ 2047) :
    ReportsWith p (.stx rx ix ind addr) s .ok
      ((scratched f s).setMem
        ((scratched f s).mem.write (effectiveAddress f s).toNat (s.readX k))).advancePc := by
  subst hf
  refine reportsWith_of_handler rfl hr fun t ht => ?_
  rw [handleStx_of_slot hk, readX_of_agrees ht, readX_scratched]
  exact ends_storeWrite_bind ht ha fun t' ht' => ends_next ht' (by simpa using hs)

/-- STX to a reserved slot raises ProtectionViolation (R208, R405). -/
theorem reportsWith_stx_reserved (hs : s.mfr = 0#4) (hf : EaFields.ofIndexOp p ix ind addr = f)
    (hr : PointerReadable f s) (hk : ix.val = k.val + 1)
    (ha : 0 ≤ (effectiveAddress f s).toInt ∧ (effectiveAddress f s).toInt ≤ 9) :
    ReportsWith p (.stx rx ix ind addr) s (.faulted .protectionViolation)
      (faulted p .protectionViolation (scratched f s)) := by
  subst hf
  refine reportsWith_of_handler rfl hr fun t ht => ?_
  rw [handleStx_of_slot hk]
  exact ends_storeWrite_bind_reserved ht (by simpa using hs) ha

/-- STX to a missing address raises IllegalAddress (R208, R405). -/
theorem reportsWith_stx_missing (hs : s.mfr = 0#4) (hf : EaFields.ofIndexOp p ix ind addr = f)
    (hr : PointerReadable f s) (hk : ix.val = k.val + 1) (ha : ¬ Addressable (effectiveAddress f s)) :
    ReportsWith p (.stx rx ix ind addr) s (.faulted .illegalAddress)
      (faulted p .illegalAddress (scratched f s)) := by
  subst hf
  refine reportsWith_of_handler rfl hr fun t ht => ?_
  rw [handleStx_of_slot hk]
  exact ends_storeWrite_bind_missing ht (by simpa using hs) ha

end

/-! ### TRAP and CNVRT -/

/-- The memory a trap leaves: the code in slot 0, then the return address in slot 2 (R560). -/
theorem recordTrap_agrees {t u : State} (code : Nat) (h : AgreesWith t u) :
    AgreesWith (recordTrap code t)
      (u.setMem ((u.mem.write 0 (BitVec.ofNat 16 code)).write 2 (BitVec.ofNat 16 (u.pc.toNat + 1)))) := by
  have hpc : wrap16 ((t.pc.toNat : Int) + 1) = BitVec.ofNat 16 (u.pc.toNat + 1) := by
    rw [h.pc]; exact BitVec.ofInt_natCast 16 (u.pc.toNat + 1)
  rw [recordTrap, hpc]
  exact memWrite_agrees 2 _ (memWrite_agrees 0 _ h)

theorem memoryView_of_agrees {t u : State} (h : AgreesWith t u) :
    memoryView t = fun a => u.mem.read a.val := by
  funext a
  rw [memoryView, h.mem]

theorem handleTrap_dispatch {p : Config.Params} {d : (Fin 2048 → Word) → BitVec 4 → PcWord}
    (hp : p.trapDispatch = some d) (code : Nat) (ea : Word) (s : State) :
    handleTrap p code ea s =
      .ok (.jump (d (memoryView (recordTrap code s)) (BitVec.ofNat 4 code))) (recordTrap code s) := by
  rw [handleTrap, hp]

theorem handleCnvrt_memory {p : Config.Params} (hp : p.cnvrtSource = .memory) (r : Fin 4) (ea : Word)
    (s : State) :
    handleCnvrt p r ea s = (memRead (s16 ea) s).bind fun m s => .ok .next (convert p r m m s) := by
  rw [handleCnvrt, hp]

/-- CNVRT's effect reads and writes neither MAR nor MBR. -/
theorem convert_setBuffers (p : Config.Params) (r : Fin 4) (x n : Word) (s : State) (a : Nat) (v : Word) :
    convert p r x n (s.setBuffers a v) = (convert p r x n s).setBuffers a v := by
  rw [convert, convert, State.readGpr_setBuffers]
  split <;> rfl

@[simp] theorem convert_mfr (p : Config.Params) (r : Fin 4) (x n : Word) (s : State) :
    (convert p r x n s).mfr = s.mfr := by
  rw [convert]; split <;> rfl

section
variable {p : Config.Params} {s : State}

/-- TRAP goes where `TrapDispatch` says of the memory it has written and the code (R560, R561). -/
theorem reportsWith_trap_dispatch {d : (Fin 2048 → Word) → BitVec 4 → PcWord} {u : BitVec 6} {code : Nat}
    {m : Memory} (hs : s.mfr = 0#4) (hp : p.trapDispatch = some d) (hr : PointerReadable (.ofT u code) s)
    (hm : m = ((scratched (.ofT u code) s).mem.write 0 (BitVec.ofNat 16 code)).write 2
      (BitVec.ofNat 16 (s.pc.toNat + 1))) :
    ReportsWith p (.trap u code) s .ok
      (((scratched (.ofT u code) s).setMem m).setPc
        (d (fun a => m.read a.val) (BitVec.ofNat 4 code))) := by
  refine reportsWith_of_handler rfl hr fun t ht => ?_
  have hrec := recordTrap_agrees code ht
  rw [scratched_pc, ← hm] at hrec
  rw [handleTrap_dispatch hp, memoryView_of_agrees hrec]
  exact ends_jump _ hrec (by simpa using hs)

variable {r ix : Fin 4} {ind : Bool} {addr : Nat}

/-- CNVRT under MEMORY converts the word at an existing address (R604). -/
theorem reportsWith_cnvrt_memory {m : Word} (hs : s.mfr = 0#4) (hp : p.cnvrtSource = .memory)
    (hr : PointerReadable ⟨ix, ind, addr⟩ s) (ha : Addressable (effectiveAddress ⟨ix, ind, addr⟩ s))
    (hm : m = (scratched ⟨ix, ind, addr⟩ s).mem.read (effectiveAddress ⟨ix, ind, addr⟩ s).toNat) :
    ReportsWith p (.cnvrt r ix ind addr) s .ok
      (convert p r m m (scratched ⟨ix, ind, addr⟩ s)).advancePc := by
  subst hm
  refine reportsWith_of_handler rfl hr fun t ht => ?_
  rw [handleCnvrt_memory hp]
  refine ends_memRead_bind ht ha fun t' ht' => ?_
  exact ends_next (agreesWith_map _ (convert_setBuffers p r _ _) ht') (by simpa using hs)

/-- CNVRT under MEMORY at a missing address raises IllegalAddress (R604). -/
theorem reportsWith_cnvrt_memory_missing (hs : s.mfr = 0#4) (hp : p.cnvrtSource = .memory)
    (hr : PointerReadable ⟨ix, ind, addr⟩ s) (ha : ¬ Addressable (effectiveAddress ⟨ix, ind, addr⟩ s)) :
    ReportsWith p (.cnvrt r ix ind addr) s (.faulted .illegalAddress)
      (faulted p .illegalAddress (scratched ⟨ix, ind, addr⟩ s)) := by
  refine reportsWith_of_handler rfl hr fun t ht => ?_
  rw [handleCnvrt_memory hp]
  exact ends_memRead_bind_missing ht (by simpa using hs) ha

end

/-- Settles O42: one report per instruction and case of its address. -/
theorem addressingUnderTheOtherParameterValues : Obligations.AddressingUnderTheOtherParameterValues := by
  intro p r ix rx ind addr s hs
  refine ⟨fun hp => ?index, fun d u code hp hr => ?trap, fun hp hr => ?cnvrt⟩
  case index =>
    have hf := ofIndexOp_of_not_indexed hp ix ind addr
    refine ⟨hf, hf, fun hr => ⟨?zero, fun k hk => ⟨?ldx, ?stx, ?reserved, ?missing⟩⟩⟩
    case zero =>
      rintro rfl
      exact ⟨reportsWith_ldx_zero hs hf hr, reportsWith_stx_zero hs hf hr⟩
    case ldx => exact reportsWith_ldx hs hf hr hk
    case stx => exact reportsWith_stx hs hf hr hk
    case reserved => exact reportsWith_stx_reserved hs hf hr hk
    case missing =>
      exact fun ha => ⟨reportsWith_ldx_missing hs hf hr hk ha, reportsWith_stx_missing hs hf hr hk ha⟩
  case trap => exact reportsWith_trap_dispatch hs hp hr rfl
  case cnvrt =>
    refine ⟨fun ha => ?_, reportsWith_cnvrt_memory_missing hs hp hr⟩
    have h := reportsWith_cnvrt_memory (r := r) hs hp hr ha rfl
    rwa [convert, readGpr_scratched] at h

end Sys2Proof.Machine

/-!
What one instruction can write: its report is reached by single writes the state rules of spec/10_state.md
and spec/20_memory.md R205 to R208 give it. Every frame of an instruction is an induction over them.
-/

namespace Sys2Proof.Machine

open Sys2Proof.Safety

/-- The words an instruction may write: the controller's slots 1 and 4, the scratch slot 6, TRAP's slots 0 and
2, and past the reserved slots what a store instruction stores (R205, R207, R208). -/
def MayStore (m : Mnemonic) (n : Nat) : Prop :=
  n = 1 ∨ n = 4 ∨ n = 6 ∨ ((n = 0 ∨ n = 2) ∧ m = .trap) ∨
    ((10 ≤ n ∧ n ≤ 2047) ∧ storesProgramData m = true)

/-- One write that the instruction `i` may make, under parameters `p`. -/
inductive Writes (p : Config.Params) (i : Instr) (t : State) : State → Prop
  | buffers (a : Nat) (v : Word) : Writes p i t (t.setBuffers a v)
  | mfr (m : BitVec 4) : Writes p i t (t.setMfr m)
  | pc (a : PcWord) : Writes p i t (t.setPc a)
  | mem {n : Nat} (hi : MayStore i.mnemonic n) (v : Word) : Writes p i t (t.setMem (t.mem.write n v))
  | gpr (hi : writesGpr i.mnemonic = true) (r : Fin 4) (v : Word) : Writes p i t (t.writeGpr r v)
  | x (hi : i.mnemonic = .ldx) (k : Fin 3) (v : Word) : Writes p i t (t.writeX k v)
  | fr (hi : writesFr i.mnemonic = true) (f : Fin 2) (v : Word) : Writes p i t (t.writeFr f v)
  | halted (hi : i.mnemonic = .hlt) : Writes p i t (t.setHalted true)
  | dev (hi : callsDevice i.mnemonic = true) (d : Devices) : Writes p i t (t.setDev d)
  | divideByZero (hi : i.mnemonic = .dvd) : Writes p i t (t.setCc (ccDivideByZero t.cc))
  | compare (hi : i.mnemonic = .trr) (a b : Word) :
      Writes p i t (t.setCc (ccCompare p.trrClearsOnNe a b t.cc))
  | consume {f ix : Fin 4} {ind : Bool} {addr : Nat} (hi : i = .jcc f ix ind addr) :
      Writes p i t (t.setCc (ccConsume f t.cc))

/-- The instruction `i` may lead from `s` to `t`: by any number of its writes. -/
def Does (p : Config.Params) (i : Instr) : State → State → Prop := Relation.ReflTransGen (Writes p i)

section
variable {p : Config.Params} {i : Instr} {s t : State}

theorem does_refl (s : State) : Does p i s s := .refl

/-- What every write of `i` leaves equal, `i` leaves equal. -/
theorem Does.eq_of_writes {β : Type} {F : State → β} (hF : ∀ t u, Writes p i t u → F u = F t)
    (h : Does p i s t) : F t = F s := by
  induction h with
  | refl => rfl
  | tail _ hw ih => exact (hF _ _ hw).trans ih

theorem Does.setBuffers (h : Does p i s t) (a : Nat) (v : Word) : Does p i s (t.setBuffers a v) :=
  .tail h (.buffers a v)

theorem Does.setMfr (h : Does p i s t) (m : BitVec 4) : Does p i s (t.setMfr m) := .tail h (.mfr m)

theorem Does.setPc (h : Does p i s t) (a : PcWord) : Does p i s (t.setPc a) := .tail h (.pc a)

theorem Does.advancePc (h : Does p i s t) : Does p i s t.advancePc := h.setPc _

theorem Does.writeGpr (h : Does p i s t) (hi : writesGpr i.mnemonic = true) (r : Fin 4) (v : Word) :
    Does p i s (t.writeGpr r v) := .tail h (.gpr hi r v)

theorem Does.writeX (h : Does p i s t) (hi : i.mnemonic = .ldx) (k : Fin 3) (v : Word) :
    Does p i s (t.writeX k v) := .tail h (.x hi k v)

theorem Does.writeFr (h : Does p i s t) (hi : writesFr i.mnemonic = true) (f : Fin 2) (v : Word) :
    Does p i s (t.writeFr f v) := .tail h (.fr hi f v)

theorem Does.setDev (h : Does p i s t) (hi : callsDevice i.mnemonic = true) (d : Devices) :
    Does p i s (t.setDev d) := .tail h (.dev hi d)

theorem Does.memWrite {n : Nat} (h : Does p i s t) (hi : MayStore i.mnemonic n) (v : Word) :
    Does p i s (memWrite n v t) := Does.setBuffers (.tail h (.mem hi v)) n v

/-! ### Parts of an instruction -/

/-- A part of the instruction `i` started in `s` ends, raising or not, where `i` may lead, and what it yields
meets `A`. -/
def Res.Within (p : Config.Params) (i : Instr) (s : State) {α : Type} (A : α → Prop) : Res α → Prop
  | .ok a t => A a ∧ Does p i s t
  | .raised _ t => Does p i s t

/-- Only HLT ends in a halt (R352). -/
def MayEnd (i : Instr) (e : Ending) : Prop := e = .halt → i.mnemonic = .hlt

theorem Res.Within.bind {α β : Type} {A : α → Prop} {B : β → Prop} {r : Res α} {f : α → State → Res β}
    (hr : r.Within p i s A) (hf : ∀ a t, Does p i s t → (f a t).Within p i s B) :
    (r.bind f).Within p i s B := by
  cases r with
  | ok a t => exact hf a t hr.2
  | raised k t => exact hr

theorem Does.next (h : Does p i s t) : (Res.ok Ending.next t).Within p i s (MayEnd i) := ⟨nofun, h⟩

theorem Does.jump (h : Does p i s t) (a : PcWord) : (Res.ok (Ending.jump a) t).Within p i s (MayEnd i) :=
  ⟨nofun, h⟩

theorem Does.raise {α : Type} {A : α → Prop} (h : Does p i s t) (k : FaultKind) :
    (raise k t).Within p i s A := h.setMfr _

theorem Does.memRead (h : Does p i s t) (n : Int) : (memRead n t).Within p i s fun _ => True := by
  rcases memRead_cases n t with ⟨-, e⟩ | ⟨-, e⟩ <;> rw [e]
  · exact ⟨trivial, h.setBuffers _ _⟩
  · exact h.raise _

theorem Does.storeWrite (h : Does p i s t) (hi : storesProgramData i.mnemonic = true) (n : Int) (v : Word) :
    (storeWrite n v t).Within p i s fun _ => True := by
  rcases storeWrite_cases n v t with ⟨hn, e⟩ | ⟨-, e⟩ | ⟨-, e⟩ <;> rw [e]
  · exact ⟨trivial, h.memWrite (.inr (.inr (.inr (.inr ⟨by omega, hi⟩)))) v⟩
  · exact h.raise _
  · exact h.raise _

theorem Does.resolve (h : Does p i s t) (f : EaFields) : (resolve f t).Within p i s fun _ => True := by
  rcases resolve_cases f t with ⟨-, e⟩ | ⟨-, e⟩ <;> rw [e]
  · exact ⟨trivial, h⟩
  · exact (h.memWrite (.inr (.inr (.inl rfl))) _).memRead _

theorem Does.target (h : Does p i s t) (ea : Word) : (target ea t).Within p i s fun _ => True := by
  rcases target_cases ea t with ⟨-, e⟩ | ⟨-, e⟩ <;> rw [e]
  · exact ⟨trivial, h⟩
  · exact h.raise _

theorem Does.frSel (h : Does p i s t) (sel : Fin 4) : (frSel sel t).Within p i s fun _ => True := by
  rcases frSel_cases sel t with ⟨f, -, e⟩ | ⟨-, e⟩ <;> rw [e]
  · exact ⟨trivial, h⟩
  · exact h.raise _

theorem Does.jumpTo (h : Does p i s t) (ea : Word) : (jumpTo ea t).Within p i s (MayEnd i) :=
  (h.target ea).bind fun a _ h => h.jump a

theorem Does.branchIf (h : Does p i s t) (taken : Bool) (ea : Word) :
    (branchIf taken ea t).Within p i s (MayEnd i) := by
  cases taken with
  | false => exact h.next
  | true => exact h.jumpTo ea

theorem Does.vectorLanes (h : Does p i s t) (hi : storesProgramData i.mnemonic = true)
    (op : Word → Word → Word) (A B : Int) (n k : Nat) :
    (vectorLanes op A B n k t).Within p i s fun _ => True := by
  induction n generalizing k t with
  | zero => exact ⟨trivial, h⟩
  | succ n ih =>
    exact (h.memRead _).bind fun _ _ h => (h.memRead _).bind fun _ _ h =>
      (h.storeWrite hi _ _).bind fun _ _ h => ih h (k + 1)

/-! ### The handlers that are more than one write -/

theorem Does.handleJcc (h : Does p i s t) {cc ix : Fin 4} {ind : Bool} {addr : Nat}
    (hi : i = .jcc cc ix ind addr) (ea : Word) : (handleJcc cc ea t).Within p i s (MayEnd i) := by
  unfold Machine.handleJcc
  split
  · exact (h.target ea).bind fun a _ h => Does.jump (.tail h (.consume hi)) a
  · exact h.next

theorem Does.handleMlt (h : Does p i s t) (hi : writesGpr i.mnemonic = true) (rx ry : Fin 4) (ea : Word) :
    (handleMlt p rx ry ea t).Within p i s (MayEnd i) := by
  unfold Machine.handleMlt
  split
  · cases p.mltHighWord with
    | high => exact ((h.writeGpr hi _ _).writeGpr hi _ _).next
    | unchanged => exact (h.writeGpr hi _ _).next
  · exact h.next

theorem Does.handleDvd (h : Does p i s t) (hi : i.mnemonic = .dvd) (rx ry : Fin 4) (ea : Word) :
    (handleDvd rx ry ea t).Within p i s (MayEnd i) := by
  have hgpr : writesGpr i.mnemonic = true := by rw [hi]; rfl
  unfold Machine.handleDvd
  split
  · dsimp only
    split
    · exact Does.next (.tail h (.divideByZero hi))
    · exact ((h.writeGpr hgpr _ _).writeGpr hgpr _ _).next
  · exact h.next

theorem Does.handleTrap (h : Does p i s t) (hi : i.mnemonic = .trap) (code : Nat) (ea : Word) :
    (handleTrap p code ea t).Within p i s (MayEnd i) := by
  have hrec : Does p i s (recordTrap code t) :=
    (h.memWrite (.inr (.inr (.inr (.inl ⟨.inl rfl, hi⟩)))) _).memWrite
      (.inr (.inr (.inr (.inl ⟨.inr rfl, hi⟩)))) _
  unfold Machine.handleTrap
  cases p.trapDispatch with
  | none => exact hrec.next
  | some d => exact hrec.jump _

theorem Does.convert (h : Does p i s t) (hgpr : writesGpr i.mnemonic = true)
    (hfr : writesFr i.mnemonic = true) (r : Fin 4) (x n : Word) : Does p i s (convert p r x n t) := by
  unfold Machine.convert
  split
  · exact h.writeGpr hgpr _ _
  · exact h.writeFr hfr _ _

theorem Does.handleCnvrt (h : Does p i s t) (hgpr : writesGpr i.mnemonic = true)
    (hfr : writesFr i.mnemonic = true) (r : Fin 4) (ea : Word) :
    (handleCnvrt p r ea t).Within p i s (MayEnd i) := by
  unfold Machine.handleCnvrt
  cases p.cnvrtSource with
  | register => exact (h.convert hgpr hfr _ _ _).next
  | memory => exact (h.memRead _).bind fun _ _ h => (h.convert hgpr hfr _ _ _).next

theorem Does.handleLdfr (h : Does p i s t) (hi : writesFr i.mnemonic = true) (fx : Fin 4) (ea : Word) :
    (handleLdfr fx ea t).Within p i s (MayEnd i) := by
  refine (h.frSel fx).bind fun f _ h => (h.memRead _).bind fun _ _ h => (h.memRead _).bind fun _ _ h => ?_
  split
  · exact ((h.writeFr hi _ _).writeFr hi _ _).next
  · exact ((h.writeFr hi _ _).writeFr hi _ _).next

theorem Does.handleVector (h : Does p i s t) (hi : storesProgramData i.mnemonic = true)
    (op : Word → Word → Word) (fr : Fin 4) (ea : Word) :
    (handleVector p op fr ea t).Within p i s (MayEnd i) :=
  (h.frSel fr).bind fun _ _ h => (h.memRead _).bind fun _ _ h => (h.memRead _).bind fun _ _ h =>
    (h.vectorLanes hi _ _ _ _ _).bind fun _ _ h => h.next

theorem Does.handleLdx (h : Does p i s t) (hi : i.mnemonic = .ldx) (ix : Fin 4) (ea : Word) :
    (handleLdx ix ea t).Within p i s (MayEnd i) := by
  unfold Machine.handleLdx
  cases xSlot ix with
  | none => exact h.next
  | some k => exact (h.memRead _).bind fun v _ h => (h.writeX hi k v).next

theorem Does.handleStx (h : Does p i s t) (hi : storesProgramData i.mnemonic = true) (ix : Fin 4) (ea : Word) :
    (handleStx ix ea t).Within p i s (MayEnd i) := by
  unfold Machine.handleStx
  cases xSlot ix with
  | none => exact h.next
  | some k => exact (h.storeWrite hi _ _).bind fun _ _ h => h.next

/-- The state an I/O handler ends in, the call having failed or not. -/
def IoEnd.state : IoEnd → State
  | .next t => t
  | .failed _ t => t

theorem Does.handleInp (h : Does p i s t) (hgpr : writesGpr i.mnemonic = true)
    (hdev : callsDevice i.mnemonic = true) (r : Fin 4) (devid : Nat) :
    Does p i s (handleInp r devid t).state := by
  rcases handleInp_cases r devid t with ⟨-, e⟩ | ⟨-, v, -, e⟩ | ⟨-, -, e⟩ <;> rw [e]
  · exact h.writeGpr hgpr _ _
  · exact (h.setDev hdev _).writeGpr hgpr _ _
  · exact h.setDev hdev _

theorem Does.handleOut (h : Does p i s t) (hdev : callsDevice i.mnemonic = true) (r : Fin 4)
    (devid : Nat) : Does p i s (handleOut r devid t).state := by
  rcases handleOut_cases r devid t with ⟨-, e⟩ | ⟨-, -, e⟩ | ⟨-, -, e⟩ <;> rw [e]
  · exact h
  · exact h.setDev hdev _
  · exact h.setDev hdev _

theorem Does.handleChk (h : Does p i s t) (hgpr : writesGpr i.mnemonic = true) (r : Fin 4)
    (devid : Nat) : Does p i s (handleChk r devid t).state := by
  rcases handleChk_cases r devid t with ⟨-, -, e⟩ | ⟨b, -, e⟩ | ⟨-, -, e⟩ | ⟨-, -, e⟩ <;> rw [e]
  · exact h.writeGpr hgpr _ _
  · exact h.writeGpr hgpr _ _
  · exact h
  · exact h

/-! ### The end of the step -/

theorem Does.faultController (h : Does p i s t) : Does p i s (faultController p t) := by
  unfold Machine.faultController
  split
  · exact h
  · exact (((h.memWrite (.inl rfl) _).setPc _).setMfr _).memWrite (.inr (.inl rfl)) _

theorem Res.Within.complete {r : Res Ending} (h : r.Within p i s (MayEnd i)) :
    Does p i s (complete p r) := by
  cases r with
  | ok e t =>
    obtain ⟨he, h⟩ := h
    cases e with
    | next => exact h.advancePc
    | jump a => exact h.setPc a
    | halt =>
      have hhalt : Does p i s (t.setHalted true) := .tail h (.halted (he rfl))
      rw [Machine.complete]
      split
      · exact hhalt.advancePc
      · exact hhalt
  | raised k t =>
    cases k with
    | illegalAddress => exact h
    | illegalOpcode => exact Does.advancePc h
    | protectionViolation => exact Does.advancePc h

theorem Res.Within.finish {r : Res Ending} (h : r.Within p i s (MayEnd i)) :
    Does p i s (finish p r).state := h.complete.faultController

theorem does_runHandler (f : EaFields) {h : Word → State → Res Ending}
    (hh : ∀ ea t, Does p i s t → (h ea t).Within p i s (MayEnd i)) :
    Does p i s (runHandler p f h s).state :=
  (((does_refl s).resolve f).bind hh).finish

theorem does_finishIo {e : IoEnd} (h : Does p i s e.state) : Does p i s (finishIo p e).state := by
  cases e with
  | next t => exact (Does.next h).finish
  | failed c t => exact h

theorem does_runIo (f : EaFields) {h : State → IoEnd}
    (hh : ∀ t, Does p i s t → Does p i s (h t).state) : Does p i s (runIo p f h s).state := by
  have hres : (resolve f s).Within p i s fun _ => True := (does_refl s).resolve f
  unfold runIo
  cases hr : resolve f s with
  | ok ea t =>
    rw [hr] at hres
    exact does_finishIo (hh t hres.2)
  | raised k t =>
    rw [hr] at hres
    exact Res.Within.finish (r := .raised k t) hres

end

/-- Executing `i` leads where `i` may lead, whatever the outcome. -/
theorem does_reportWith (p : Config.Params) (i : Instr) (s : State) :
    Does p i s (reportWith p i s).state := by
  cases i with
  | hlt u => exact does_runHandler _ fun _ _ h => ⟨fun _ => rfl, h⟩
  | ldr r => exact does_runHandler _ fun _ _ h => (h.memRead _).bind fun v _ h => (h.writeGpr rfl r v).next
  | str r => exact does_runHandler _ fun _ _ h => (h.storeWrite rfl _ _).bind fun _ _ h => h.next
  | lda r => exact does_runHandler _ fun ea _ h => (h.writeGpr rfl r ea).next
  | amr r => exact does_runHandler _ fun _ _ h => (h.memRead _).bind fun _ _ h => (h.writeGpr rfl r _).next
  | smr r => exact does_runHandler _ fun _ _ h => (h.memRead _).bind fun _ _ h => (h.writeGpr rfl r _).next
  | air r => exact does_runHandler _ fun _ _ h => (h.writeGpr rfl r _).next
  | sir r => exact does_runHandler _ fun _ _ h => (h.writeGpr rfl r _).next
  | jz => exact does_runHandler _ fun ea _ h => h.branchIf _ ea
  | jne => exact does_runHandler _ fun ea _ h => h.branchIf _ ea
  | jcc => exact does_runHandler _ fun ea _ h => h.handleJcc rfl ea
  | jma => exact does_runHandler _ fun ea _ h => h.jumpTo ea
  | jsr =>
    exact does_runHandler _ fun ea _ h => (h.target ea).bind fun a _ h =>
      ((h.writeGpr rfl _ _).writeGpr rfl _ _).jump a
  | rfs => exact does_runHandler _ fun _ _ h => (h.writeGpr rfl _ _).jump _
  | sob => exact does_runHandler _ fun ea _ h => h.branchIf _ ea
  | jge => exact does_runHandler _ fun ea _ h => h.branchIf _ ea
  | mlt rx ry => exact does_runHandler _ fun ea _ h => h.handleMlt rfl rx ry ea
  | dvd rx ry => exact does_runHandler _ fun ea _ h => h.handleDvd rfl rx ry ea
  | trr rx ry => exact does_runHandler _ fun _ _ h => Does.next (.tail h (.compare rfl _ _))
  | and rx ry => exact does_runHandler _ fun _ _ h => (h.writeGpr rfl rx _).next
  | orr rx ry => exact does_runHandler _ fun _ _ h => (h.writeGpr rfl rx _).next
  | not rx => exact does_runHandler _ fun _ _ h => (h.writeGpr rfl rx _).next
  | trap u code => exact does_runHandler _ fun ea _ h => h.handleTrap rfl code ea
  | src r => exact does_runHandler _ fun _ _ h => (h.writeGpr rfl r _).next
  | rrc r => exact does_runHandler _ fun _ _ h => (h.writeGpr rfl r _).next
  | fadd fr =>
    exact does_runHandler _ fun _ _ h => (h.frSel fr).bind fun f _ h => (h.memRead _).bind fun _ _ h =>
      (h.writeFr rfl f _).next
  | fsub fr =>
    exact does_runHandler _ fun _ _ h => (h.frSel fr).bind fun f _ h => (h.memRead _).bind fun _ _ h =>
      (h.writeFr rfl f _).next
  | vadd fr => exact does_runHandler _ fun ea _ h => h.handleVector rfl _ fr ea
  | vsub fr => exact does_runHandler _ fun ea _ h => h.handleVector rfl _ fr ea
  | cnvrt r => exact does_runHandler _ fun ea _ h => h.handleCnvrt rfl rfl r ea
  | ldx rx ix => exact does_runHandler _ fun ea _ h => h.handleLdx rfl ix ea
  | stx rx ix => exact does_runHandler _ fun ea _ h => h.handleStx rfl ix ea
  | ldfr fx => exact does_runHandler _ fun ea _ h => h.handleLdfr rfl fx ea
  | stfr fx =>
    exact does_runHandler _ fun _ _ h => (h.frSel fx).bind fun _ _ h => (h.storeWrite rfl _ _).bind fun _ _ h =>
      (h.storeWrite rfl _ _).bind fun _ _ h => h.next
  | inp r u devid => exact does_runIo _ fun _ h => h.handleInp rfl rfl r devid
  | out r u devid => exact does_runIo _ fun _ h => h.handleOut rfl r devid
  | chk r u devid => exact does_runIo _ fun _ h => h.handleChk rfl r devid

/-- A word with an unassigned opcode does nothing that some instruction may not do. -/
theorem does_reportIllegal (p : Config.Params) (w : Word) (s : State) (i : Instr) :
    Does p i s (reportIllegal p w s).state :=
  does_runHandler _ fun _ _ h => h.raise _

/-- A next state of `exec` is the end of a report at the default parameters. -/
theorem reportWith_of_exec {i : Instr} {s t : State} (h : exec i s = .next t) :
    ∃ o, reportWith Config.params i s = .done o t := by
  rw [exec_eq_execWith, execWith] at h
  cases hr : reportWith Config.params i s with
  | done o u => rw [hr] at h; cases h; exact ⟨o, rfl⟩
  | hostError c u => rw [hr] at h; cases h

theorem does_of_exec {i : Instr} {s t : State} (h : exec i s = .next t) : Does Config.params i s t := by
  obtain ⟨o, hr⟩ := reportWith_of_exec h
  have hd := does_reportWith Config.params i s
  rwa [hr] at hd

end Sys2Proof.Machine

/-!
The invariant of spec/30_encoding.md R355 and spec/60_exceptions.md R711 under every change of the machine,
and reset (spec/10_state.md R117).
-/

namespace Sys2Proof.Machine

open Sys2Proof.Safety

/-! ### The two ways a step reports (R354) -/

/-- A report of a step begun in `s` is the end of a completion or fault, or a HostError, before which nothing
was raised. -/
def Report.EndsFrom (p : Config.Params) (s : State) (r : Report) : Prop :=
  (∃ e, r = finish p e) ∨ ∃ c t, r = .hostError c t ∧ t.mfr = s.mfr

theorem endsFrom_finish (p : Config.Params) (s : State) (e : Res Ending) : (finish p e).EndsFrom p s :=
  .inl ⟨e, rfl⟩

theorem resolve_mfr {f : EaFields} {s t : State} {ea : Word} (h : resolve f s = .ok ea t) :
    t.mfr = s.mfr := by
  rcases resolve_cases f s with ⟨-, e⟩ | ⟨-, e⟩ <;> rw [e] at h
  · cases h; rfl
  · rcases memRead_cases (s16 (indexedAddress f s)) (memWrite 6 (indexedAddress f s) s)
      with ⟨-, e⟩ | ⟨-, e⟩ <;> rw [e] at h <;> cases h
    rfl

theorem handleInp_failed_mfr {r : Fin 4} {devid : Nat} {t u : State} {c : DeviceCall}
    (h : handleInp r devid t = .failed c u) : u.mfr = t.mfr := by
  rcases handleInp_cases r devid t with ⟨-, e⟩ | ⟨-, v, -, e⟩ | ⟨-, -, e⟩ <;> rw [e] at h <;> cases h
  rfl

theorem handleOut_failed_mfr {r : Fin 4} {devid : Nat} {t u : State} {c : DeviceCall}
    (h : handleOut r devid t = .failed c u) : u.mfr = t.mfr := by
  rcases handleOut_cases r devid t with ⟨-, e⟩ | ⟨-, -, e⟩ | ⟨-, -, e⟩ <;> rw [e] at h <;> cases h
  rfl

theorem handleChk_failed_mfr {r : Fin 4} {devid : Nat} {t u : State} {c : DeviceCall}
    (h : handleChk r devid t = .failed c u) : u.mfr = t.mfr := by
  rcases handleChk_cases r devid t with ⟨-, -, e⟩ | ⟨b, -, e⟩ | ⟨-, -, e⟩ | ⟨-, -, e⟩ <;>
    rw [e] at h <;> cases h <;> rfl

theorem runIo_endsFrom {p : Config.Params} {f : EaFields} {h : State → IoEnd} {s : State}
    (hh : ∀ t c u, h t = .failed c u → u.mfr = t.mfr) : (runIo p f h s).EndsFrom p s := by
  unfold runIo
  cases hr : resolve f s with
  | ok ea t =>
    dsimp only
    cases he : h t with
    | next u => exact endsFrom_finish p s _
    | failed c u => exact .inr ⟨c, u, rfl, (hh t c u he).trans (resolve_mfr hr)⟩
  | raised k t => exact endsFrom_finish p s _

theorem reportWith_endsFrom (p : Config.Params) (i : Instr) (s : State) :
    (reportWith p i s).EndsFrom p s := by
  cases i with
  | inp => exact runIo_endsFrom fun _ _ _ => handleInp_failed_mfr
  | out => exact runIo_endsFrom fun _ _ _ => handleOut_failed_mfr
  | chk => exact runIo_endsFrom fun _ _ _ => handleChk_failed_mfr
  | _ => exact endsFrom_finish p s _

theorem executeIRWith_endsFrom (p : Config.Params) (s : State) : (executeIRWith p s).EndsFrom p s := by
  cases h : decodeWith p.opcodeMap s.ir with
  | ok i => rw [executeIRWith_of_decode h]; exact reportWith_endsFrom p i s
  | error e => rw [executeIRWith_of_unassigned h]; exact endsFrom_finish p s _

theorem stepWith_endsFrom (p : Config.Params) (s : State) : (stepWith p s).EndsFrom p s := by
  unfold stepWith
  rcases fetch_cases s with ⟨-, e⟩ | ⟨-, e⟩ <;> rw [e]
  · exact executeIRWith_endsFrom p _
  · exact endsFrom_finish p s _

/-- The fault controller leaves MFR = 0 whether or not it has a fault to handle (R710, R711). -/
theorem faultController_mfr (p : Config.Params) (s : State) : (faultController p s).mfr = 0#4 := by
  unfold faultController
  split
  · assumption
  · rfl

theorem Report.EndsFrom.mfr_zero {p : Config.Params} {s : State} {r : Report} (h : r.EndsFrom p s)
    (hs : s.mfr = 0#4) : r.state.mfr = 0#4 := by
  rcases h with ⟨e, rfl⟩ | ⟨c, t, rfl, ht⟩
  · exact faultController_mfr p _
  · exact ht.trans hs

/-! ### Every change keeps the invariant -/

theorem mayStore_lt {m : Mnemonic} {n : Nat} (h : MayStore m n) : n < 2048 := by
  rcases h with h | h | h | ⟨h, -⟩ | ⟨h, -⟩ <;> omega

theorem Writes.mem_wf {p : Config.Params} {i : Instr} {t u : State} (h : Writes p i t u)
    (w : t.mem.wf = true) : u.mem.wf = true := by
  cases h with
  | mem hi v => exact Memory.wf_write v w (mayStore_lt hi)
  | _ => exact w

theorem Does.mem_wf {p : Config.Params} {i : Instr} {s t : State} (h : Does p i s t)
    (w : s.mem.wf = true) : t.mem.wf = true := by
  induction h with
  | refl => exact w
  | tail _ hw ih => exact hw.mem_wf ih

theorem executeIRWith_mem_wf {p : Config.Params} {s : State} (w : s.mem.wf = true) :
    (executeIRWith p s).state.mem.wf = true := by
  cases h : decodeWith p.opcodeMap s.ir with
  | ok i => rw [executeIRWith_of_decode h]; exact (does_reportWith p i s).mem_wf w
  | error e =>
    rw [executeIRWith_of_unassigned h]
    exact (does_reportIllegal p s.ir s (.hlt 0)).mem_wf w

theorem stepWith_mem_wf {p : Config.Params} {s : State} (w : s.mem.wf = true) :
    (stepWith p s).state.mem.wf = true := by
  unfold stepWith
  rcases fetch_cases s with ⟨-, e⟩ | ⟨-, e⟩ <;> rw [e]
  · exact executeIRWith_mem_wf w
  · exact faultController_wf p w

theorem inv_executeIRWith {s : State} (p : Config.Params) (h : Inv s) : Inv (executeIRWith p s).state :=
  ⟨executeIRWith_mem_wf h.mem_wf, (executeIRWith_endsFrom p s).mfr_zero h.mfr_zero⟩

theorem inv_stepWith {s : State} (p : Config.Params) (h : Inv s) : Inv (stepWith p s).state :=
  ⟨stepWith_mem_wf h.mem_wf, (stepWith_endsFrom p s).mfr_zero h.mfr_zero⟩

/-- The invariant reads memory and MFR only. -/
theorem inv_congr {s t : State} (h : Inv s) (hmem : t.mem = s.mem) (hmfr : t.mfr = s.mfr) : Inv t :=
  ⟨hmem ▸ h.mem_wf, hmfr.trans h.mfr_zero⟩

theorem inv_runSteps {s : State} (p : Config.Params) (env : List (Devices → Devices)) (h : Inv s) :
    Inv (runSteps p env s).state := by
  induction env generalizing s with
  | nil => exact h
  | cons e env ih =>
    have hstep : Inv (stepWith p (s.setDev (e s.dev))).state := inv_stepWith p (inv_congr h rfl rfl)
    unfold runSteps
    split <;> rename_i heq <;> rw [heq] at hstep
    · exact hstep
    · exact ih hstep
    · exact ih hstep
    · exact hstep

theorem inv_loadPair {n : Int} {v : Word} {s t : State} (h : Inv s) (ht : loadPair n v s = .next t) :
    Inv t := by
  refine ⟨loadPair_wf h.mem_wf ht, ?_⟩
  unfold loadPair at ht
  split at ht <;> cases ht
  exact h.mfr_zero

theorem inv_hostLoad {s : State} (pairs : List (Int × Word)) (h : Inv s) : Inv (hostLoad pairs s).1 := by
  induction pairs generalizing s with
  | nil => exact h
  | cons pair rest ih =>
    obtain ⟨n, v⟩ := pair
    unfold hostLoad
    split
    · exact ih (inv_loadPair h ‹_›)
    · exact ih h
    · exact ih h

theorem inv_reset : Inv State.reset := ⟨reset_mem_wf, rfl⟩

theorem inv_of_changes {p : Config.Params} {s t : State} (hs : Inv s) (h : Changes p s t) : Inv t := by
  cases h with
  | step => exact inv_stepWith p hs
  | executeIR => exact inv_executeIRWith p hs
  | run env => exact inv_runSteps p env (inv_congr hs rfl rfl)
  | reset => exact inv_congr inv_reset rfl rfl
  | load pairs => exact inv_hostLoad pairs hs
  | setPc | setCc | loadIr | environment => exact inv_congr hs rfl rfl
  | setReg r => cases r <;> exact inv_congr hs rfl rfl

theorem inv_of_reachable {p : Config.Params} {s : State} (h : Reachable p s) : Inv s := by
  induction h with
  | reset => exact inv_reset
  | change _ hc ih => exact inv_of_changes ih hc

/-- Settles O49: the step lemma over the kinds of change, then induction over reachability. -/
theorem everyChangeKeepsMemoryCanonicalAndMfrZero : Obligations.EveryChangeKeepsMemoryCanonicalAndMfrZero :=
  ⟨fun _ _ _ => inv_of_changes, fun _ _ => inv_of_reachable⟩

/-- Settles O50: every field of the reset state is a zero literal. -/
theorem resetLeavesEveryRegisterAndWordZero : Obligations.ResetLeavesEveryRegisterAndWordZero := by
  refine ⟨fun r => ?_, fun k => ?_, fun f => ?_, rfl, rfl, rfl, rfl, rfl, rfl, fun _ => rfl, rfl, inv_reset,
    fun _ => rfl⟩
  · simp [State.readGpr, State.reset]
  · simp [State.readX, State.reset]
  · simp [State.readFr, State.reset]

end Sys2Proof.Machine

/-!
What an instruction leaves unchanged: the condition codes (spec/10_state.md R110), and the register files,
Halted and the devices (R104, R105, R108, R112, R113).
-/

namespace Sys2Proof.Machine

open Sys2Proof.Safety

/-! ### The condition codes -/

/-- Setting a flag sets that bit and no other. -/
theorem getMsbD_flagSet (c : BitVec 4) (i j : Fin 4) :
    (flagSet c i).getMsbD j = (decide (j = i) || c.getMsbD j) := by
  simp [flagSet, getMsbD_flagBit, Bool.or_comm]

theorem ccCompare_of_eq {a b : Word} (h : a = b) (clears : Bool) (cc : BitVec 4) :
    ccCompare clears a b cc = flagSet cc 3 := if_pos h

theorem ccCompare_keeps_of_ne {a b : Word} (h : a ≠ b) (cc : BitVec 4) : ccCompare false a b cc = cc := by
  rw [ccCompare, if_neg h, if_neg Bool.false_ne_true]

/-- The flags an instruction may set (R110). -/
def MaySetFlag (i : Instr) (f : Fin 4) : Prop :=
  (f = 2 ∧ i.mnemonic = .dvd) ∨ (f = 3 ∧ i.mnemonic = .trr)

/-- The flags an instruction may clear: the one a JCC selects (R110, R463). -/
def MayClearFlag (i : Instr) (f : Fin 4) : Prop := ∃ ix ind addr, i = .jcc f ix ind addr

/-- A flag differs between `s` and `t` only where `i` may set or clear it. -/
def FlagFrame (i : Instr) (f : Fin 4) (s t : State) : Prop :=
  (s.cc.getMsbD f = false → t.cc.getMsbD f = true → MaySetFlag i f) ∧
  (s.cc.getMsbD f = true → t.cc.getMsbD f = false → MayClearFlag i f)

section
variable {i : Instr} {f : Fin 4} {s t u : State}

theorem flagFrame_of_eq (h : t.cc.getMsbD f = s.cc.getMsbD f) : FlagFrame i f s t := by
  constructor <;> intro hs ht <;> rw [h, hs] at ht <;> cases ht

theorem flagFrame_trans (hst : FlagFrame i f s t) (htu : FlagFrame i f t u) : FlagFrame i f s u := by
  cases ht : t.cc.getMsbD f with
  | false => exact ⟨fun _ => htu.1 ht, fun hs _ => hst.2 hs ht⟩
  | true => exact ⟨fun hs _ => hst.1 hs ht, fun _ => htu.2 ht⟩

/-- Setting flag `j` changes flag `f` only when they are the same. -/
theorem flagFrame_flagSet {j : Fin 4} (hset : f = j → MaySetFlag i f) :
    FlagFrame i f t (t.setCc (flagSet t.cc j)) := by
  by_cases hj : f = j
  · refine ⟨fun _ _ => hset hj, fun _ ht => ?_⟩
    rw [State.setCc_cc, getMsbD_flagSet, hj, decide_eq_true rfl, Bool.true_or] at ht
    cases ht
  · refine flagFrame_of_eq ?_
    rw [State.setCc_cc, getMsbD_flagSet, decide_eq_false hj, Bool.false_or]

/-- Clearing flag `j` changes flag `f` only when they are the same. -/
theorem flagFrame_flagClear {j : Fin 4} (hclear : f = j → MayClearFlag i f) :
    FlagFrame i f t (t.setCc (flagClear t.cc j)) := by
  by_cases hj : f = j
  · refine ⟨fun _ ht => ?_, fun _ _ => hclear hj⟩
    rw [State.setCc_cc, getMsbD_flagClear, hj, decide_eq_false (not_not_intro rfl), Bool.false_and] at ht
    cases ht
  · refine flagFrame_of_eq ?_
    rw [State.setCc_cc, getMsbD_flagClear, decide_eq_true hj, Bool.true_and]

theorem Writes.flagFrame {p : Config.Params} (hp : p.trrClearsOnNe = false) (h : Writes p i t u) :
    FlagFrame i f t u := by
  cases h with
  | divideByZero hi => exact flagFrame_flagSet fun hf => .inl ⟨hf, hi⟩
  | compare hi a b =>
    rw [hp]
    by_cases hab : a = b
    · rw [ccCompare_of_eq hab]
      exact flagFrame_flagSet fun hf => .inr ⟨hf, hi⟩
    · rw [ccCompare_keeps_of_ne hab]
      exact flagFrame_of_eq rfl
  | consume hi => exact flagFrame_flagClear fun hf => ⟨_, _, _, hf ▸ hi⟩
  | _ => exact flagFrame_of_eq rfl

theorem Does.flagFrame {p : Config.Params} (hp : p.trrClearsOnNe = false) (h : Does p i s t) :
    FlagFrame i f s t := by
  induction h with
  | refl => exact flagFrame_of_eq rfl
  | tail _ hw ih => exact flagFrame_trans ih (hw.flagFrame hp)

end

/-- Settles O53: the frame of each write, chained. -/
theorem conditionCodesChangeOnlyAsTheTableSays : Obligations.ConditionCodesChangeOnlyAsTheTableSays :=
  fun _ _ _ h _ => (does_of_exec h).flagFrame rfl

/-! ### The register files, Halted, IR and the devices -/

section
variable {p : Config.Params} {i : Instr} {s t : State}

theorem Does.gpr_eq (h : Does p i s t) (hi : writesGpr i.mnemonic = false) : t.gpr = s.gpr :=
  h.eq_of_writes fun _ _ hw => by
    cases hw with
    | gpr hw => exact absurd (hi.symm.trans hw) Bool.false_ne_true
    | _ => rfl

theorem Does.x_eq (h : Does p i s t) (hi : i.mnemonic ≠ .ldx) : t.x = s.x :=
  h.eq_of_writes fun _ _ hw => by
    cases hw with
    | x hw => exact absurd hw hi
    | _ => rfl

theorem Does.fr_eq (h : Does p i s t) (hi : writesFr i.mnemonic = false) : t.fr = s.fr :=
  h.eq_of_writes fun _ _ hw => by
    cases hw with
    | fr hw => exact absurd (hi.symm.trans hw) Bool.false_ne_true
    | _ => rfl

theorem Does.halted_eq (h : Does p i s t) (hi : i.mnemonic ≠ .hlt) : t.halted = s.halted :=
  h.eq_of_writes fun _ _ hw => by
    cases hw with
    | halted hw => exact absurd hw hi
    | _ => rfl

theorem Does.dev_eq (h : Does p i s t) (hi : callsDevice i.mnemonic = false) : t.dev = s.dev :=
  h.eq_of_writes fun _ _ hw => by
    cases hw with
    | dev hw => exact absurd (hi.symm.trans hw) Bool.false_ne_true
    | _ => rfl

theorem Does.ir_eq (h : Does p i s t) : t.ir = s.ir :=
  h.eq_of_writes fun _ _ hw => by cases hw <;> rfl

end

/-- Settles O55: the frame of each field. -/
theorem registerFilesChangeOnlyByTheirInstructions : Obligations.RegisterFilesChangeOnlyByTheirInstructions := by
  intro i s t h
  have hd := does_of_exec h
  exact ⟨hd.gpr_eq, hd.x_eq, hd.fr_eq, hd.halted_eq, hd.dev_eq, hd.ir_eq⟩

end Sys2Proof.Machine

/-!
The access operations and the resolver as spec/20_memory.md R206, R208 and spec/30_encoding.md R310 say them,
and LDX, STX, TRR and HLT at the default parameters.
-/

namespace Sys2Proof.Machine

open Sys2Proof.Safety

/-! ### Accesses and the resolver -/

/-- Raising sets the MFR bit and changes nothing else (R702). -/
theorem raise_agrees {α : Type} (k : FaultKind) {t u : State} (h : AgreesWith t u) :
    ∃ v, (raise k t : Res α) = .raised k v ∧ AgreesWith v (u.setMfr (mfrRaise k u.mfr)) :=
  ⟨_, rfl, agreesWith_map (fun s => s.setMfr (mfrRaise k s.mfr)) (fun _ _ _ => rfl) h⟩

theorem memRead_inside {n : Int} (h : 0 ≤ n ∧ n ≤ 2047) (s : State) :
    ∃ t, memRead n s = .ok (s.mem.read n.toNat) t ∧ AgreesWith t s := by
  rcases memRead_cases n s with ⟨-, e⟩ | ⟨hn, -⟩
  · exact ⟨_, e, agreesWith_setBuffers _ _ _⟩
  · exact absurd h hn

theorem memRead_outside {n : Int} (h : ¬ (0 ≤ n ∧ n ≤ 2047)) (s : State) :
    memRead n s = raise .illegalAddress s := by
  rcases memRead_cases n s with ⟨hn, -⟩ | ⟨-, e⟩
  · exact absurd hn h
  · exact e

theorem storeWrite_outside {n : Int} (h : ¬ (0 ≤ n ∧ n ≤ 2047)) (v : Word) (s : State) :
    storeWrite n v s = raise .illegalAddress s := by
  rcases storeWrite_cases n v s with ⟨hn, -⟩ | ⟨hn, -⟩ | ⟨-, e⟩
  · exact absurd ⟨by omega, hn.2⟩ h
  · exact absurd ⟨hn.1, by omega⟩ h
  · exact e

theorem storeWrite_reserved {n : Int} (h : 0 ≤ n ∧ n ≤ 9) (v : Word) (s : State) :
    storeWrite n v s = raise .protectionViolation s := by
  rcases storeWrite_cases n v s with ⟨hn, -⟩ | ⟨-, e⟩ | ⟨hn, -⟩
  · exact absurd hn.1 (by omega)
  · exact e
  · exact absurd ⟨h.1, by omega⟩ hn

theorem storeWrite_program {n : Int} (h : 10 ≤ n ∧ n ≤ 2047) (v : Word) (s : State) :
    storeWrite n v s = .ok () (memWrite n.toNat v s) := by
  rcases storeWrite_cases n v s with ⟨-, e⟩ | ⟨hn, -⟩ | ⟨hn, -⟩
  · exact e
  · exact absurd hn.2 (by omega)
  · exact absurd ⟨by omega, h.2⟩ hn

/-- Settles O10: the range and the reserved slots, case by case. -/
theorem accessesCheckTheRangeThenTheReservedSlots :
    Obligations.AccessesCheckTheRangeThenTheReservedSlots := by
  intro n v s
  refine ⟨fun h => memRead_inside h s, fun h => ⟨?read, ?store⟩, fun h => ?reserved, fun h => ?program⟩
  case read => rw [memRead_outside h]; exact raise_agrees _ (agreesWith_refl s)
  case store => rw [storeWrite_outside h]; exact raise_agrees _ (agreesWith_refl s)
  case reserved => rw [storeWrite_reserved h]; exact raise_agrees _ (agreesWith_refl s)
  case program => exact ⟨_, storeWrite_program h v s, memWrite_agrees _ _ (agreesWith_refl s)⟩

theorem not_pointerReadable_iff {f : EaFields} {s : State} :
    ¬ PointerReadable f s ↔ f.indirect = true ∧ ¬ Addressable (preAddress f s) := Classical.not_imp

/-- With a missing pointer the resolver has written the scratch slot when it raises (R310, R702). -/
theorem resolve_of_not_pointerReadable {f : EaFields} {s : State} (hp : ¬ PointerReadable f s) :
    ∃ t, resolve f s = .raised .illegalAddress t ∧
      AgreesWith t { s with mem := s.mem.write 6 (preAddress f s), mfr := s.mfr ||| 8#4 } := by
  obtain ⟨hind, hmissing⟩ := not_pointerReadable_iff.1 hp
  rcases resolve_cases f s with ⟨hi, -⟩ | ⟨-, e⟩
  · exact absurd (hi.symm.trans hind) Bool.false_ne_true
  · rw [e, indexedAddress_eq_preAddress, memRead_of_not_addressable hmissing]
    exact raise_agrees _ (memWrite_agrees 6 _ (agreesWith_refl s))

/-- Settles O8: whether the pointer can be read. -/
theorem resolverComputesTheEffectiveAddress : Obligations.ResolverComputesTheEffectiveAddress :=
  fun _ _ => ⟨resolve_of_pointerReadable, resolve_of_not_pointerReadable⟩

/-! ### The opcode bits and the default parameters -/

/-- The opcode bits of a word, masked out, are the opcode of its mnemonic (R300). -/
theorem encode_and_opcode_mask {i : Instr} {w : Word} (m : Mnemonic) (hm : i.mnemonic = m)
    (hw : Config.opcodeMap m ++ 0#10 = w) : encode i &&& 0xFC00#16 = w := by
  have happend : encode i = Config.opcodeMap m ++ operandBits i := by rw [← hm]; rfl
  have hmask : (0xFC00#16 : Word) = BitVec.allOnes 6 ++ 0#10 := by decide
  rw [happend, hmask, BitVec.and_append, BitVec.and_allOnes, BitVec.and_zero, hw]

/-- What is reported at the default parameters is what `exec` reaches. -/
theorem reaches_of_reportsWith {i : Instr} {s u : State} {o : StepOutcome}
    (h : ReportsWith Config.params i s o u) : Reaches i s u := by
  obtain ⟨t, e, ht⟩ := h
  exact ⟨t, by rw [exec_eq_execWith, execWith, e]; rfl, ht⟩

/-! ### LDX and STX -/

theorem ofIndexOp_of_indexed {p : Config.Params} (hp : p.ldxStxIndexed = true) (ix : Fin 4) (ind : Bool)
    (addr : Nat) : EaFields.ofIndexOp p ix ind addr = ⟨ix, ind, addr⟩ := by
  simp [EaFields.ofIndexOp, hp]

/-- STX at any address: the three cases of a store (R208, R405). -/
theorem reportsWith_stx_stored {p : Config.Params} {rx : BitVec 2} {ix : Fin 4} {ind : Bool} {addr : Nat}
    {s : State} {f : EaFields} {k : Fin 3} (hs : s.mfr = 0#4) (hf : EaFields.ofIndexOp p ix ind addr = f)
    (hr : PointerReadable f s) (hk : ix.val = k.val + 1) :
    ∃ o, ReportsWith p (.stx rx ix ind addr) s o
      (stored p (effectiveAddress f s) (s.readX k) (scratched f s)) := by
  unfold stored
  split_ifs with hreserved hprogram
  · exact ⟨_, reportsWith_stx_reserved hs hf hr hk hreserved⟩
  · exact ⟨_, reportsWith_stx hs hf hr hk hprogram⟩
  · exact ⟨_, reportsWith_stx_missing hs hf hr hk fun ha => by
      obtain ⟨hlo, hhi⟩ := ha
      omega⟩

/-- Settles O15: selector 0 and the cases of the address. -/
theorem ldxAndStxMoveTheIndexRegister : Obligations.LdxAndStxMoveTheIndexRegister := by
  intro rx ix ind addr s s1 ea
  have hf := ofIndexOp_of_indexed (p := Config.params) rfl ix ind addr
  refine ⟨⟨encode_and_opcode_mask .ldx rfl (by decide), encode_and_opcode_mask .stx rfl (by decide), hf, hf⟩,
    fun hready => ?_⟩
  obtain ⟨hs, hr⟩ := hready
  refine ⟨?zero, fun k hk => ⟨fun ha => ?ldx, fun ha => ?missing, ?stx⟩⟩
  case zero =>
    rintro rfl
    exact ⟨reaches_of_reportsWith (reportsWith_ldx_zero hs rfl hr),
      reaches_of_reportsWith (reportsWith_stx_zero hs rfl hr)⟩
  case ldx => exact reaches_of_reportsWith (reportsWith_ldx hs rfl hr hk ha)
  case missing => exact reaches_of_reportsWith (reportsWith_ldx_missing hs rfl hr hk ha)
  case stx =>
    obtain ⟨o, h⟩ := reportsWith_stx_stored (rx := rx) hs rfl hr hk
    exact reaches_of_reportsWith h

/-! ### TRR and HLT -/

section
variable {p : Config.Params} {s : State}

/-- TRR leaves CC as the comparison of its registers says (R520). -/
theorem reportsWith_trr {rx ry : Fin 4} {u : BitVec 6} (hs : s.mfr = 0#4)
    (hr : PointerReadable (.ofRR ry u) s) :
    ReportsWith p (.trr rx ry u) s .ok
      ((scratched (.ofRR ry u) s).setCc
        (ccCompare p.trrClearsOnNe (s.readGpr rx) (s.readGpr ry) s.cc)).advancePc := by
  refine reportsWith_of_handler rfl hr fun t ht => ?_
  rw [handleTrr, readGpr_of_agrees ht, readGpr_of_agrees ht, readGpr_scratched, readGpr_scratched, ht.cc,
    scratched_cc]
  exact ends_next (agreesWith_map (State.setCc · _) (fun _ _ _ => rfl) ht) (by simpa using hs)

theorem ends_halt {t u : State} (hp : p.hltAdvancesPc = true) (h : AgreesWith t u) (hu : u.mfr = 0#4) :
    Ends p (.ok .halt t) .halt (u.setHalted true).advancePc := by
  refine ends_ok ?_ hu
  rw [complete, hp]
  exact agreesWith_map (fun s => (s.setHalted true).advancePc) (fun _ _ _ => rfl) h

theorem reportsWith_hlt {v : BitVec 10} (hs : s.mfr = 0#4) (hp : p.hltAdvancesPc = true)
    (hr : PointerReadable (.ofH v) s) :
    ReportsWith p (.hlt v) s .halt ((scratched (.ofH v) s).setHalted true).advancePc :=
  reportsWith_of_handler rfl hr fun _ ht => ends_halt hp ht (by simpa using hs)

end

/-- Settles O25: on equality flag 3 is set, on inequality CC is written back as it was. -/
theorem trrSetsCcThreeOnEquality : Obligations.TrrSetsCcThreeOnEquality := by
  intro rx ry u s i s1
  refine ⟨encode_and_opcode_mask .trr rfl (by decide), fun hready => ?_⟩
  have h := reaches_of_reportsWith (reportsWith_trr (rx := rx) hready.mfr_zero hready.pointer)
  refine ⟨fun heq => ⟨flagSet s.cc 3, getMsbD_flagSet s.cc 3, ?_⟩, fun hne => ?_⟩
  · rwa [ccCompare_of_eq heq] at h
  · have hcc : s.cc = s1.cc := (scratched_cc _ s).symm
    rw [show Config.params.trrClearsOnNe = false from rfl, ccCompare_keeps_of_ne hne, hcc] at h
    exact h

/-- Settles O39: the handler only ends in a halt. -/
theorem hltSetsHaltedAndAdvances : Obligations.HltSetsHaltedAndAdvances := by
  intro u s i s1
  refine ⟨encode_and_opcode_mask .hlt rfl (by decide), fun hready => ?_⟩
  have h := reportsWith_hlt (p := Config.params) hready.mfr_zero rfl hready.pointer
  exact ⟨reaches_of_reportsWith h, h⟩

end Sys2Proof.Machine

/-!
When a run ends (spec/70_reset_and_hazards.md R810 to R812).
-/

namespace Sys2Proof.Machine

open Sys2Proof.Safety

/-- A completion that halts leaves Halted = 1 (R113, R352). -/
theorem finish_halted {p : Config.Params} {e : Res Ending} {t : State} (h : finish p e = .done .halt t) :
    t.halted = true := by
  obtain ⟨hout, rfl⟩ := Report.done.inj h
  cases e with
  | raised k s => cases hout
  | ok e s =>
    cases e with
    | next => cases hout
    | jump a => cases hout
    | halt =>
      have hcomplete : (complete p (.ok .halt s)).halted = true := by rw [complete]; split <;> rfl
      unfold faultController
      split <;> exact hcomplete

theorem stepWith_halted {p : Config.Params} {s t : State} (h : stepWith p s = .done .halt t) :
    t.halted = true := by
  rcases stepWith_endsFrom p s with ⟨e, he⟩ | ⟨c, u, he, -⟩ <;> rw [h] at he
  · exact finish_halted he.symm
  · cases he

section
variable {p : Config.Params} {e : Devices → Devices} {s t : State}

/-- One step of a run is halted exactly when it reports Halt. -/
theorem runSteps_singleton_halted_iff :
    runSteps p [e] s = .halted t ↔ stepWith p (s.setDev (e s.dev)) = .done .halt t := by
  unfold runSteps
  rcases stepWith p (s.setDev (e s.dev)) with ⟨_ | _ | k, u⟩ | ⟨c, u⟩ <;> simp

/-- One step of a run ends in HostError exactly when it reports it. -/
theorem runSteps_singleton_hostError_iff {c : DeviceCall} :
    runSteps p [e] s = .hostError c t ↔ stepWith p (s.setDev (e s.dev)) = .hostError c t := by
  unfold runSteps
  rcases stepWith p (s.setDev (e s.dev)) with ⟨_ | _ | k, u⟩ | ⟨c, u⟩ <;> simp

/-- A step that reports an outcome other than Halt goes on. -/
theorem runSteps_singleton_running {o : StepOutcome} (h : stepWith p (s.setDev (e s.dev)) = .done o t)
    (ho : o ≠ .halt) : runSteps p [e] s = .running t := by
  unfold runSteps
  rw [h]
  cases o with
  | halt => exact absurd rfl ho
  | ok => rfl
  | faulted k => rfl

/-- After a stretch that goes on, the run is the rest of it. -/
theorem runSteps_append_of_running {a : List (Devices → Devices)} (b : List (Devices → Devices))
    (h : runSteps p a s = .running t) : runSteps p (a ++ b) s = runSteps p b t := by
  rw [runSteps_append, h]

/-- After a stretch that has ended, the rest is not run. -/
theorem runSteps_append_of_ended {a : List (Devices → Devices)} (b : List (Devices → Devices))
    (h : ∀ u, runSteps p a s ≠ .running u) : runSteps p (a ++ b) s = runSteps p a s := by
  rw [runSteps_append]
  cases hr : runSteps p a s with
  | running u => exact absurd hr (h u)
  | halted u => rfl
  | hostError c u => rfl

end

/-- A run ends in `r` exactly when the step after those that went on ends it in `r`. -/
theorem runSteps_eq_iff_of_ended {p : Config.Params} {r : RunEnd} (hr : ∀ u, r ≠ .running u)
    (env : List (Devices → Devices)) (s : State) :
    runSteps p env s = r ↔ ∃ before after e u, env = before ++ e :: after ∧
      runSteps p before s = .running u ∧ runSteps p [e] u = r := by
  constructor
  · induction env generalizing s with
    | nil => exact fun h => absurd h.symm (hr s)
    | cons e env ih =>
      intro h
      by_cases hgo : ∃ u, runSteps p [e] s = .running u
      · obtain ⟨u, hu⟩ := hgo
        obtain ⟨before, after, d, v, henv, hbefore, hend⟩ :=
          ih u ((runSteps_append_of_running env hu).symm.trans h)
        exact ⟨e :: before, after, d, v, congrArg (e :: ·) henv,
          (runSteps_append_of_running before hu).trans hbefore, hend⟩
      · have hended := runSteps_append_of_ended env fun u hu => hgo ⟨u, hu⟩
        exact ⟨[], env, e, s, rfl, rfl, hended.symm.trans h⟩
  · rintro ⟨before, after, e, u, rfl, hbefore, hend⟩
    rw [runSteps_append_of_running _ hbefore, ← hend]
    exact runSteps_append_of_ended (a := [e]) after fun v hv => hr v (hend.symm.trans hv)

theorem runSteps_halted_iff {p : Config.Params} {env : List (Devices → Devices)} {s t : State} :
    runSteps p env s = .halted t ↔ ∃ before after e u, env = before ++ e :: after ∧
      runSteps p before s = .running u ∧ stepWith p (u.setDev (e u.dev)) = .done .halt t := by
  rw [runSteps_eq_iff_of_ended (r := .halted t) nofun]
  simp only [runSteps_singleton_halted_iff]

theorem runSteps_hostError_iff {p : Config.Params} {env : List (Devices → Devices)} {s t : State}
    {c : DeviceCall} :
    runSteps p env s = .hostError c t ↔ ∃ before after e u, env = before ++ e :: after ∧
      runSteps p before s = .running u ∧ stepWith p (u.setDev (e u.dev)) = .hostError c t := by
  rw [runSteps_eq_iff_of_ended (r := .hostError c t) nofun]
  simp only [runSteps_singleton_hostError_iff]

/-- Settles O60: a run from the state with Halted cleared, cut at the step that ends it. -/
theorem runEndsAtTheStepThatHalts : Obligations.RunEndsAtTheStepThatHalts := by
  intro p s t
  refine ⟨rfl, fun before e o u hbefore hstep ho => ?_, fun env => runSteps_halted_iff, fun env h => ?_,
    fun env c => runSteps_hostError_iff⟩
  · exact (runSteps_append_of_running [e] hbefore).trans (runSteps_singleton_running hstep ho)
  · obtain ⟨_, _, _, _, -, -, hstep⟩ := runSteps_halted_iff.1 h
    exact stepWith_halted hstep

end Sys2Proof.Machine

/-!
How memory changes in one step (spec/20_memory.md R205 to R208), and the invariant of
spec/30_encoding.md R355 under the step of the default machine.
-/

namespace Sys2Proof.Machine

open Sys2Proof.Safety

/-! ### The step's next state and its HostError state are those the parametric step reports -/

theorem stepWith_of_step_next {s t : State} (h : step s = .next t) : (stepWith Config.params s).state = t := by
  rw [step_eq_toHost_stepWith] at h
  cases hr : stepWith Config.params s with
  | done o u => rw [hr] at h; cases h; rfl
  | hostError c u => rw [hr] at h; cases h

theorem stepWith_of_step_fault {s t : State} {c : DeviceCall} (h : step s = .fault (.hostError c t)) :
    (stepWith Config.params s).state = t := by
  rw [step_eq_toHost_stepWith] at h
  cases hr : stepWith Config.params s with
  | done o u => rw [hr] at h; cases h
  | hostError c u => rw [hr] at h; cases h; rfl

/-- Settles O48: the invariant of the parametric step, at either way the step can stop. -/
theorem stepKeepsMemoryCanonicalAndMfrZero : Obligations.StepKeepsMemoryCanonicalAndMfrZero := by
  refine ⟨fun s t hs h => ?next, fun s t c hs h => ?fault⟩
  case next => exact stepWith_of_step_next h ▸ inv_stepWith Config.params hs
  case fault => exact stepWith_of_step_fault h ▸ inv_stepWith Config.params hs

/-! ### The words an instruction leaves unchanged -/

section
variable {p : Config.Params} {i : Instr} {s t : State} {n : Nat}

theorem Writes.read_eq {u : State} (h : Writes p i t u) (w : t.mem.wf = true)
    (hn : ¬ MayStore i.mnemonic n) : u.mem.read n = t.mem.read n := by
  cases h with
  | mem hi v => exact Memory.read_write_ne v w fun e => hn (e ▸ hi)
  | _ => rfl

/-- A word the instruction may not store keeps its value. -/
theorem Does.read_eq (h : Does p i s t) (w : s.mem.wf = true) (hn : ¬ MayStore i.mnemonic n) :
    t.mem.read n = s.mem.read n := by
  induction h with
  | refl => rfl
  | tail hd hw ih => exact (hw.read_eq (Does.mem_wf hd w) hn).trans ih

/-- Past the reserved slots only a store instruction may store (R208). -/
theorem not_mayStore_program {m : Mnemonic} (hm : storesProgramData m = false) (hn : 10 ≤ n) :
    ¬ MayStore m n := by
  rintro (h | h | h | ⟨h, -⟩ | ⟨-, h⟩)
  case inr.inr.inr.inr => exact Bool.false_ne_true (hm.symm.trans h)
  all_goals omega

/-- Only TRAP may store in its two slots (R207, R560). -/
theorem not_mayStore_trap {m : Mnemonic} (hm : m ≠ .trap) (hn : n = 0 ∨ n = 2) : ¬ MayStore m n := by
  rintro (h | h | h | ⟨-, h⟩ | ⟨h, -⟩)
  case inr.inr.inr.inl => exact hm h
  all_goals omega

/-- The reserved slots that no rule names are stored by no instruction (R205, R207). -/
theorem not_mayStore_unnamed (m : Mnemonic) (hn : n ∈ [3, 5, 7, 8, 9]) : ¬ MayStore m n := by
  simp only [List.mem_cons, List.not_mem_nil, or_false] at hn
  rintro (h | h | h | ⟨h, -⟩ | ⟨h, -⟩) <;> omega

end

/-- Settles O52: neither range holds a word the instruction may store. -/
theorem programMemoryChangesOnlyByStoreInstructions :
    Obligations.ProgramMemoryChangesOnlyByStoreInstructions := by
  intro i s t hs h
  have hread {n : Nat} : ¬ MayStore i.mnemonic n → t.mem.read n = s.mem.read n :=
    (does_of_exec h).read_eq hs.mem_wf
  refine ⟨fun hi n hn => ?program, fun hi => ⟨?slot0, ?slot2⟩⟩
  case program => exact hread (not_mayStore_program hi hn)
  case slot0 => exact hread (not_mayStore_trap hi (.inl rfl))
  case slot2 => exact hread (not_mayStore_trap hi (.inr rfl))

/-! ### The step -/

/-- ExecuteIR leads where some instruction may lead, the word in IR decoding or not (R353). -/
theorem does_executeIRWith (p : Config.Params) (s : State) : ∃ i, Does p i s (executeIRWith p s).state := by
  cases h : decodeWith p.opcodeMap s.ir with
  | ok i => rw [executeIRWith_of_decode h]; exact ⟨i, does_reportWith p i s⟩
  | error e => rw [executeIRWith_of_unassigned h]; exact ⟨.hlt 0, does_reportIllegal p s.ir s _⟩

/-- A step leads where some instruction may lead from a state with the same memory: the one the fetch left, or
the one it raised in (R350, R351). -/
theorem does_stepWith (p : Config.Params) (s : State) :
    ∃ i u, u.mem = s.mem ∧ Does p i u (stepWith p s).state := by
  unfold stepWith
  rcases fetch_cases s with ⟨-, e⟩ | ⟨-, e⟩ <;> rw [e]
  · obtain ⟨i, hd⟩ := does_executeIRWith p
      ((s.setBuffers s.pc.toNat (s.mem.read s.pc.toNat)).setIr (s.mem.read s.pc.toNat))
    refine ⟨i, _, ?_, hd⟩
    rfl
  · exact ⟨.hlt 0, s, rfl, ((does_refl s).raise _).finish⟩

/-- Settles O51: whatever instruction the step runs, it may not store in these slots. -/
theorem unnamedReservedSlotsChangeOnlyByTheHost : Obligations.UnnamedReservedSlotsChangeOnlyByTheHost := by
  intro s t hs h n hn
  obtain ⟨i, u, hu, hd⟩ := does_stepWith Config.params s
  rw [stepWith_of_step_next h] at hd
  rw [hd.read_eq (hu ▸ hs.mem_wf) (not_mayStore_unnamed _ hn), hu]

end Sys2Proof.Machine

/-!
TRAP and OUT (spec/46_trap.md, spec/47_io.md R573), and how any I/O handler's end looks up to MAR and MBR.
-/

namespace Sys2Proof.Machine

open Sys2Proof.Safety

/-! ### TRAP -/

theorem handleTrap_none {p : Config.Params} (hp : p.trapDispatch = none) (code : Nat) (ea : Word) (s : State) :
    handleTrap p code ea s = .ok .next (recordTrap code s) := by
  rw [handleTrap, hp]

/-- TRAP without `TrapDispatch` records the code and PC + 1 and goes on (R560, R561). -/
theorem reportsWith_trap {p : Config.Params} {s : State} {u : BitVec 6} {code : Nat} (hs : s.mfr = 0#4)
    (hp : p.trapDispatch = none) (hr : PointerReadable (.ofT u code) s) :
    ReportsWith p (.trap u code) s .ok
      ((scratched (.ofT u code) s).setMem
        (((scratched (.ofT u code) s).mem.write 0 (BitVec.ofNat 16 code)).write 2
          (BitVec.ofNat 16 (s.pc.toNat + 1)))).advancePc := by
  refine reportsWith_of_handler rfl hr fun t ht => ?_
  have hrec := recordTrap_agrees code ht
  rw [scratched_pc] at hrec
  rw [handleTrap_none hp]
  exact ends_next hrec (by simpa using hs)

/-- Settles O29: the record of the trap, then the next instruction. -/
theorem trapRecordsCodeAndReturnAddress : Obligations.TrapRecordsCodeAndReturnAddress := by
  intro u code s i s1
  refine ⟨encode_and_opcode_mask .trap rfl (by decide), fun hready => ?_⟩
  have h := reaches_of_reportsWith (reportsWith_trap hready.mfr_zero rfl hready.pointer)
  rw [← scratched_pc (.ofT u code) s]
  rwa [← scratched_pc (.ofT u code) s] at h

/-! ### The end of an I/O handler (R352, R354) -/

section
variable {p : Config.Params} {i : Instr} {s u : State} {f : EaFields} {h : State → IoEnd}

/-- An I/O instruction whose pointer is readable and whose handler completes. -/
theorem reportsWith_of_ioHandler (hi : reportWith p i s = runIo p f h s) (hp : PointerReadable f s)
    (hh : ∀ t, AgreesWith t (scratched f s) → ∃ v, h t = .next v ∧ AgreesWith v u) (hu : u.mfr = 0#4) :
    ReportsWith p i s .ok u.advancePc := by
  obtain ⟨t, e, ht⟩ := resolve_of_pointerReadable hp
  obtain ⟨v, hv, hvu⟩ := hh t ht
  obtain ⟨w, hfin, hw⟩ := ends_next (p := p) hvu hu
  refine ⟨w, ?_, hw⟩
  rw [hi, runIo, e]
  dsimp only
  rw [hv]
  exact hfin

/-- An I/O instruction whose pointer is readable and whose device call fails (R354). -/
theorem hostError_of_ioHandler {c : DeviceCall} (hi : reportWith p i s = runIo p f h s)
    (hp : PointerReadable f s)
    (hh : ∀ t, AgreesWith t (scratched f s) → ∃ v, h t = .failed c v ∧ AgreesWith v u) :
    ∃ v, reportWith p i s = .hostError c v ∧ AgreesWith v u := by
  obtain ⟨t, e, ht⟩ := resolve_of_pointerReadable hp
  obtain ⟨v, hv, hvu⟩ := hh t ht
  refine ⟨v, ?_, hvu⟩
  rw [hi, runIo, e]
  dsimp only
  rw [hv]
  rfl

/-- A HostError reported at the default parameters is the fault `exec` stops with. -/
theorem exec_fault_of_hostError {c : DeviceCall}
    (h : ∃ v, reportWith Config.params i s = .hostError c v ∧ AgreesWith v u) :
    ∃ v, exec i s = .fault (.hostError c v) ∧ AgreesWith v u := by
  obtain ⟨v, e, hv⟩ := h
  exact ⟨v, by rw [exec_eq_execWith, execWith, e]; rfl, hv⟩

end

/-! ### OUT -/

@[simp] theorem scratched_dev (f : EaFields) (s : State) : (scratched f s).dev = s.dev := by
  unfold scratched; split <;> rfl

/-- The devices after a `PrtWrite` whose reply let `bytes` be printed (log entry 5). -/
def Devices.afterPrtWrite (d : Devices) (bytes : List Byte) : Devices :=
  { d with
    prtWriteDraws := d.prtWriteDraws.tail
    prtStatusDraws := d.prtStatusDraws.tail
    calls := d.calls + 1
    printed := d.printed ++ bytes }

/-- `PrtWrite` prints its byte when its reply is no failure, and nothing otherwise (R570; log entry 5). -/
theorem prtWrite_snd (b : Byte) (d : Devices) :
    (prtWrite b d).2 = d.afterPrtWrite (if (prtWrite b d).1.isSome then [b] else []) := by
  rw [Devices.afterPrtWrite, apply_ite (d.printed ++ ·), List.append_nil]
  rfl

theorem handleOut_other {devid : Nat} (h : devid ≠ 1) (r : Fin 4) (s : State) :
    handleOut r devid s = .next s := if_neg h

section
variable {r : Fin 4} {b : Byte} {d : Devices} {t u : State}

/-- OUT to the printer, its reply no failure (R573). -/
theorem handleOut_printed (ht : AgreesWith t u) (hb : (u.readGpr r).setWidth 8 = b) (hd : u.dev = d)
    (h : (prtWrite b d).1 = some ()) :
    ∃ v, handleOut r 1 t = .next v ∧ AgreesWith v (u.setDev (d.afterPrtWrite [b])) := by
  subst hb hd
  have hset := agreesWith_map (State.setDev · (u.dev.afterPrtWrite [(u.readGpr r).setWidth 8]))
    (fun _ _ _ => rfl) ht
  rcases handleOut_cases r 1 t with ⟨hne, -⟩ | ⟨-, -, e⟩ | ⟨-, hnone, -⟩
  · exact absurd rfl hne
  · rw [prtWrite_snd, readGpr_of_agrees ht, ht.dev, h] at e
    exact ⟨_, e, hset⟩
  · rw [readGpr_of_agrees ht, ht.dev, h] at hnone
    cases hnone

/-- OUT to the printer, its reply a failure (R573, R708). -/
theorem handleOut_failed (ht : AgreesWith t u) (hb : (u.readGpr r).setWidth 8 = b) (hd : u.dev = d)
    (h : (prtWrite b d).1 = none) :
    ∃ v, handleOut r 1 t = .failed .prtWrite v ∧ AgreesWith v (u.setDev (d.afterPrtWrite [])) := by
  subst hb hd
  have hset := agreesWith_map (State.setDev · (u.dev.afterPrtWrite [])) (fun _ _ _ => rfl) ht
  rcases handleOut_cases r 1 t with ⟨hne, -⟩ | ⟨-, hsome, -⟩ | ⟨-, -, e⟩
  · exact absurd rfl hne
  · rw [readGpr_of_agrees ht, ht.dev, h] at hsome
    cases hsome
  · rw [prtWrite_snd, readGpr_of_agrees ht, ht.dev, h] at e
    exact ⟨_, e, hset⟩

end

/-- Settles O31: the cases of the device id and of the reply. -/
theorem outHandsTheLowByteToThePrinter : Obligations.OutHandsTheLowByteToThePrinter := by
  intro r u devid s i s1 reply called
  refine ⟨encode_and_opcode_mask .out rfl (by decide), fun hready => ?_⟩
  obtain ⟨hs, hr⟩ := hready
  have hmfr : s1.mfr = 0#4 := (scratched_mfr _ s).trans hs
  have hdev : s1.dev = s.dev := scratched_dev _ s
  have hbyte : (s1.readGpr r).setWidth 8 = (s.readGpr r).extractLsb' 0 8 := by
    rw [← BitVec.setWidth_eq_extractLsb' (by decide)]
    exact congrArg _ (readGpr_scratched _ s r)
  refine ⟨fun hid => ?other, fun hid hok => ?printed, fun hid hfail => ?failed⟩
  case other =>
    exact reaches_of_reportsWith
      (reportsWith_of_ioHandler rfl hr (fun t ht => ⟨t, handleOut_other hid r t, ht⟩) hmfr)
  case printed =>
    subst hid
    exact reaches_of_reportsWith
      (reportsWith_of_ioHandler rfl hr (fun _ ht => handleOut_printed ht hbyte hdev hok) hmfr)
  case failed =>
    subst hid
    exact exec_fault_of_hostError
      (hostError_of_ioHandler rfl hr fun _ ht => handleOut_failed ht hbyte hdev hfail)

end Sys2Proof.Machine

/-!
LDR, STR, LDFR and STFR at addresses that exist, and what a load reads after a store (spec/20_memory.md R212,
spec/40_load_store.md R401, R402, spec/48_float_vector.md R605, R606).
-/

namespace Sys2Proof.Machine

open Sys2Proof.Safety

/-! ### Handlers that go on after an access at the address `n` -/

/-- A word whose signed reading is not negative reads the same unsigned. -/
theorem toInt_eq_toNat_of_nonneg {w : Word} (h : 0 ≤ w.toInt) : w.toInt = (w.toNat : Int) := by
  rw [← s16_toNat h, Int.toNat_of_nonneg h]

section
variable {p : Config.Params} {t u v : State} {o : StepOutcome} {z : Int} {n : Nat}

theorem ends_memRead_bind_at {g : Word → State → Res Ending} (h : AgreesWith t u) (hz : z = n)
    (hn : n ≤ 2047) (hg : ∀ t', AgreesWith t' u → Ends p (g (u.mem.read n) t') o v) :
    Ends p ((memRead z t).bind g) o v := by
  subst hz
  obtain ⟨t', e, ht'⟩ := memRead_inside (n := n) ⟨by omega, by omega⟩ t
  rw [e, Res.ok_bind, Int.toNat_natCast, h.mem]
  exact hg t' (agreesWith_trans ht' h)

theorem ends_storeWrite_bind_at {w : Word} {g : Unit → State → Res Ending} (h : AgreesWith t u)
    (hz : z = n) (hn : 10 ≤ n ∧ n ≤ 2047)
    (hg : ∀ t', AgreesWith t' (u.setMem (u.mem.write n w)) → Ends p (g () t') o v) :
    Ends p ((storeWrite z w t).bind g) o v := by
  subst hz
  rw [storeWrite_program (by omega), Res.ok_bind, Int.toNat_natCast]
  exact hg _ (memWrite_agrees n w h)

end

/-! ### The four instructions -/

@[simp] theorem scratched_fr (f : EaFields) (s : State) : (scratched f s).fr = s.fr := by
  unfold scratched; split <;> rfl

/-- Agreeing states hold the same floating registers. -/
theorem readFr_of_agrees {t u : State} (h : AgreesWith t u) (f : Fin 2) : t.readFr f = u.readFr f := by
  rw [State.readFr, h.fr]; rfl

@[simp] theorem readFr_scratched (f : EaFields) (s : State) (g : Fin 2) :
    (scratched f s).readFr g = s.readFr g := by simp [State.readFr]

/-- The selectors 0 and 1 select FR0 and FR1 (R601). -/
theorem frSel_of_val {sel : Fin 4} {f : Fin 2} (h : sel.val = f.val) (s : State) : frSel sel s = .ok f s := by
  rcases frSel_cases sel s with ⟨g, hg, e⟩ | ⟨h2, -⟩
  · rw [e, Fin.ext (h.symm.trans hg)]
  · omega

/-- Two words in the order the ordering flag gives them: as they are at 0, swapped at 1 (R605, R606). -/
def inFxOrder (f : Fin 2) (pair : Word × Word) : Word × Word := if f = 0 then pair else pair.swap

/-- Ordering twice is no change. -/
@[simp] theorem inFxOrder_inFxOrder (f : Fin 2) (pair : Word × Word) :
    inFxOrder f (inFxOrder f pair) = pair := by
  unfold inFxOrder; split <;> simp

/-- FR0 and FR1 both replaced (R112). -/
def State.setFrPair (s : State) (pair : Word × Word) : State := { s with fr := #v[pair.1, pair.2] }

/-- FR0 and FR1 (R112). -/
def State.frPair (s : State) : Word × Word := (s.readFr 0, s.readFr 1)

@[simp] theorem State.setFrPair_mfr (s : State) (pair : Word × Word) : (s.setFrPair pair).mfr = s.mfr := rfl

/-- FR0 and FR1 are the whole register file. -/
theorem State.frPair_eq_fr (s : State) : #v[s.frPair.1, s.frPair.2] = s.fr := by
  refine Vector.ext fun k hk => ?_
  match k with
  | 0 | 1 => rfl

theorem writeFr_zero_writeFr_one (a b : Word) (s : State) :
    (s.writeFr 0 a).writeFr 1 b = s.setFrPair (a, b) := by
  refine congrArg (fun fr => { s with fr := fr }) (Vector.ext fun k hk => ?_)
  match k with
  | 0 | 1 => simp

theorem writeFr_one_writeFr_zero (a b : Word) (s : State) :
    (s.writeFr 1 b).writeFr 0 a = s.setFrPair (a, b) := by
  refine congrArg (fun fr => { s with fr := fr }) (Vector.ext fun k hk => ?_)
  match k with
  | 0 | 1 => simp

/-- What LDFR writes is the pair it read, put in order (R605). -/
theorem writeFr_pair_eq_setFrPair (f : Fin 2) (w0 w1 : Word) (s : State) :
    (if f = 0 then (s.writeFr 0 w0).writeFr 1 w1 else (s.writeFr 1 w0).writeFr 0 w1) =
      s.setFrPair (inFxOrder f (w0, w1)) := by
  match f with
  | 0 => exact writeFr_zero_writeFr_one w0 w1 s
  | 1 => exact writeFr_one_writeFr_zero w1 w0 s

/-- LDFR, once its selector is known: two reads, then the pair put in order (R605). -/
theorem handleLdfr_of_val {fx : Fin 4} {f : Fin 2} (hf : fx.val = f.val) (ea : Word) (s : State) :
    handleLdfr fx ea s = (memRead (s16 ea) s).bind fun w0 s => (memRead (s16 ea + 1) s).bind fun w1 s =>
      .ok .next (s.setFrPair (inFxOrder f (w0, w1))) := by
  rw [handleLdfr, frSel_of_val hf, Res.ok_bind]
  simp only [writeFr_pair_eq_setFrPair]

/-- STFR, once its selector is known: the two stores of FR0 and FR1, put in order (R606). -/
theorem handleStfr_of_val {fx : Fin 4} {f : Fin 2} (hf : fx.val = f.val) (ea : Word) (s : State) :
    handleStfr fx ea s = (storeWrite (s16 ea) (inFxOrder f s.frPair).1 s).bind fun _ t =>
      (storeWrite (s16 ea + 1) (inFxOrder f s.frPair).2 t).bind fun _ t => .ok .next t := by
  rw [handleStfr, frSel_of_val hf, Res.ok_bind]
  match f with
  | 0 | 1 => rfl

section
variable {p : Config.Params} {s : State} {r ix : Fin 4} {ind : Bool} {addr : Nat}

/-- LDR loads the word at an existing address (R401). -/
theorem reportsWith_ldr (hs : s.mfr = 0#4) (hr : PointerReadable ⟨ix, ind, addr⟩ s)
    (ha : Addressable (effectiveAddress ⟨ix, ind, addr⟩ s)) :
    ReportsWith p (.ldr r ix ind addr) s .ok
      ((scratched ⟨ix, ind, addr⟩ s).writeGpr r
        ((scratched ⟨ix, ind, addr⟩ s).mem.read (effectiveAddress ⟨ix, ind, addr⟩ s).toNat)).advancePc := by
  refine reportsWith_of_handler rfl hr fun t ht => ?_
  refine ends_memRead_bind ht ha fun t' ht' => ?_
  exact ends_next (agreesWith_map (State.writeGpr · r _) (fun _ _ _ => rfl) ht') (by simpa using hs)

/-- STR stores the register past the reserved slots (R208, R402). -/
theorem reportsWith_str (hs : s.mfr = 0#4) (hr : PointerReadable ⟨ix, ind, addr⟩ s)
    (ha : 10 ≤ (effectiveAddress ⟨ix, ind, addr⟩ s).toInt ∧
      (effectiveAddress ⟨ix, ind, addr⟩ s).toInt ≤ 2047) :
    ReportsWith p (.str r ix ind addr) s .ok
      ((scratched ⟨ix, ind, addr⟩ s).setMem
        ((scratched ⟨ix, ind, addr⟩ s).mem.write (effectiveAddress ⟨ix, ind, addr⟩ s).toNat
          (s.readGpr r))).advancePc := by
  refine reportsWith_of_handler rfl hr fun t ht => ?_
  rw [handleStr, readGpr_of_agrees ht, readGpr_scratched]
  exact ends_storeWrite_bind ht ha fun t' ht' => ends_next ht' (by simpa using hs)

variable {fx : Fin 4} {f : Fin 2}

/-- LDFR loads the pair at `ea` and `ea + 1` in the order of its flag (R605). -/
theorem reportsWith_ldfr {ea : Word} (hs : s.mfr = 0#4) (hr : PointerReadable ⟨ix, ind, addr⟩ s)
    (hf : fx.val = f.val) (hea : effectiveAddress ⟨ix, ind, addr⟩ s = ea)
    (ha : 0 ≤ ea.toInt ∧ ea.toInt ≤ 2046) :
    ReportsWith p (.ldfr fx ix ind addr) s .ok
      ((scratched ⟨ix, ind, addr⟩ s).setFrPair (inFxOrder f
        ((scratched ⟨ix, ind, addr⟩ s).mem.read ea.toNat,
          (scratched ⟨ix, ind, addr⟩ s).mem.read (ea.toNat + 1)))).advancePc := by
  have h0 := toInt_eq_toNat_of_nonneg ha.1
  refine reportsWith_of_handler rfl hr fun t ht => ?_
  rw [hea, handleLdfr_of_val hf]
  refine ends_memRead_bind_at ht h0 (by omega) fun t ht => ?_
  refine ends_memRead_bind_at (n := ea.toNat + 1) ht (congrArg (· + 1) h0) (by omega) fun t ht => ?_
  exact ends_next (agreesWith_map (State.setFrPair · _) (fun _ _ _ => rfl) ht) (by simpa using hs)

/-- STFR stores the pair at `ea` and `ea + 1` in the order of its flag (R606). -/
theorem reportsWith_stfr {ea : Word} (hs : s.mfr = 0#4) (hr : PointerReadable ⟨ix, ind, addr⟩ s)
    (hf : fx.val = f.val) (hea : effectiveAddress ⟨ix, ind, addr⟩ s = ea)
    (ha : 10 ≤ ea.toInt ∧ ea.toInt ≤ 2046) :
    ReportsWith p (.stfr fx ix ind addr) s .ok
      ((scratched ⟨ix, ind, addr⟩ s).setMem
        (((scratched ⟨ix, ind, addr⟩ s).mem.write ea.toNat (inFxOrder f s.frPair).1).write (ea.toNat + 1)
          (inFxOrder f s.frPair).2)).advancePc := by
  have h0 := toInt_eq_toNat_of_nonneg (w := ea) (by omega)
  refine reportsWith_of_handler rfl hr fun t ht => ?_
  have hpair : t.frPair = s.frPair := by
    simp only [State.frPair, readFr_of_agrees ht, readFr_scratched]
  rw [hea, handleStfr_of_val hf, hpair]
  refine ends_storeWrite_bind_at ht h0 (by omega) fun t ht => ?_
  refine ends_storeWrite_bind_at (n := ea.toNat + 1) ht (congrArg (· + 1) h0) (by omega) fun t ht => ?_
  exact ends_next ht (by simpa using hs)

end

/-! ### Direct addresses -/

section
variable {f : EaFields} (s : State)

theorem scratched_of_direct (hf : f.indirect = false) : scratched f s = s := by
  rw [scratched, hf, if_neg Bool.false_ne_true]

theorem effectiveAddress_of_direct (hf : f.indirect = false) : effectiveAddress f s = preAddress f s := by
  rw [effectiveAddress, hf, if_neg Bool.false_ne_true]

theorem pointerReadable_of_direct (hf : f.indirect = false) : PointerReadable f s := fun hi =>
  absurd (hf.symm.trans hi) Bool.false_ne_true

end

/-- The pre-indirection address reads the index registers only (R310). -/
theorem preAddress_congr {s t : State} (f : EaFields) (h : t.x = s.x) : preAddress f t = preAddress f s := by
  unfold preAddress
  rw [h]

section
variable {s : State} {r ix : Fin 4} {addr : Nat} {ea : Word}

theorem reaches_ldr_direct (hs : s.mfr = 0#4) (hea : preAddress ⟨ix, false, addr⟩ s = ea)
    (ha : Addressable ea) :
    Reaches (.ldr r ix false addr) s (s.writeGpr r (s.mem.read ea.toNat)).advancePc := by
  have he := (effectiveAddress_of_direct s rfl).trans hea
  have h := reportsWith_ldr (p := Config.params) (r := r) hs (pointerReadable_of_direct s rfl)
    (he.symm ▸ ha)
  rw [he, scratched_of_direct s rfl] at h
  exact reaches_of_reportsWith h

theorem reaches_str_direct (hs : s.mfr = 0#4) (hea : preAddress ⟨ix, false, addr⟩ s = ea)
    (ha : 10 ≤ ea.toInt ∧ ea.toInt ≤ 2047) :
    Reaches (.str r ix false addr) s (s.setMem (s.mem.write ea.toNat (s.readGpr r))).advancePc := by
  have he := (effectiveAddress_of_direct s rfl).trans hea
  have h := reportsWith_str (p := Config.params) (r := r) hs (pointerReadable_of_direct s rfl)
    (he.symm ▸ ha)
  rw [he, scratched_of_direct s rfl] at h
  exact reaches_of_reportsWith h

variable {fx : Fin 4} {f : Fin 2}

theorem reaches_ldfr_direct (hs : s.mfr = 0#4) (hf : fx.val = f.val)
    (hea : preAddress ⟨ix, false, addr⟩ s = ea) (ha : 0 ≤ ea.toInt ∧ ea.toInt ≤ 2046) :
    Reaches (.ldfr fx ix false addr) s
      (s.setFrPair (inFxOrder f (s.mem.read ea.toNat, s.mem.read (ea.toNat + 1)))).advancePc := by
  have h := reportsWith_ldfr (p := Config.params) hs (pointerReadable_of_direct s rfl) hf
    ((effectiveAddress_of_direct s rfl).trans hea) ha
  rw [scratched_of_direct s rfl] at h
  exact reaches_of_reportsWith h

theorem reaches_stfr_direct (hs : s.mfr = 0#4) (hf : fx.val = f.val)
    (hea : preAddress ⟨ix, false, addr⟩ s = ea) (ha : 10 ≤ ea.toInt ∧ ea.toInt ≤ 2046) :
    Reaches (.stfr fx ix false addr) s
      (s.setMem ((s.mem.write ea.toNat (inFxOrder f s.frPair).1).write (ea.toNat + 1)
        (inFxOrder f s.frPair).2)).advancePc := by
  have h := reportsWith_stfr (p := Config.params) hs (pointerReadable_of_direct s rfl) hf
    ((effectiveAddress_of_direct s rfl).trans hea) ha
  rw [scratched_of_direct s rfl] at h
  exact reaches_of_reportsWith h

end

/-! ### A load after a store -/

/-- Two words written at successive addresses are read back (R212). -/
theorem read_write_pair {m : Memory} {n : Nat} (v w : Word) (hm : m.wf = true) (hn : n < 2048) :
    ((m.write n v).write (n + 1) w).read n = v ∧ ((m.write n v).write (n + 1) w).read (n + 1) = w := by
  have hwf := Memory.wf_write v hm hn
  refine ⟨?_, Memory.read_write_same _ _ hwf⟩
  rw [Memory.read_write_ne _ hwf (by omega), Memory.read_write_same _ _ hm]

theorem ldr_after_str {r ix q jx : Fin 4} {a b : Nat} {s : State} {ea eb : Word} (hs : Inv s)
    (hea : preAddress ⟨ix, false, a⟩ s = ea) (heb : preAddress ⟨jx, false, b⟩ s = eb)
    (ha : 10 ≤ ea.toInt ∧ ea.toInt ≤ 2047) (hb : Addressable eb) :
    ∃ t u, exec (.str r ix false a) s = .next t ∧ exec (.ldr q jx false b) t = .next u ∧
      u.readGpr q = if eb = ea then s.readGpr r else s.mem.read eb.toNat := by
  obtain ⟨t, hstr, ht⟩ := reaches_str_direct (r := r) hs.mfr_zero hea ha
  obtain ⟨u, hldr, hu⟩ := reaches_ldr_direct (r := q) (ht.mfr.trans hs.mfr_zero)
    ((preAddress_congr _ ht.x).trans heb) hb
  refine ⟨t, u, hstr, hldr, ?_⟩
  rw [readGpr_of_agrees hu, State.readGpr_advancePc, State.readGpr_writeGpr_same, ht.mem,
    State.advancePc_mem, State.setMem_mem, Memory.read_write _ _ _ hs.mem_wf]
  simp only [BitVec.toNat_inj]

theorem ldfr_after_stfr {fx ix : Fin 4} {f : Fin 2} {addr : Nat} {s : State} {ea : Word}
    (junk : Vector Word 2) (hs : Inv s) (hf : fx.val = f.val) (hea : preAddress ⟨ix, false, addr⟩ s = ea)
    (ha : 10 ≤ ea.toInt ∧ ea.toInt ≤ 2046) :
    ∃ t u, exec (.stfr fx ix false addr) s = .next t ∧
      exec (.ldfr fx ix false addr) { t with fr := junk } = .next u ∧ u.fr = s.fr := by
  obtain ⟨t, hstfr, ht⟩ := reaches_stfr_direct hs.mfr_zero hf hea ha
  obtain ⟨u, hldfr, hu⟩ := reaches_ldfr_direct (s := { t with fr := junk }) (ht.mfr.trans hs.mfr_zero) hf
    ((preAddress_congr _ ht.x).trans hea) ⟨by omega, ha.2⟩
  refine ⟨t, u, hstfr, hldfr, ?_⟩
  have hn := toInt_eq_toNat_of_nonneg (w := ea) (by omega)
  obtain ⟨hfst, hsnd⟩ := read_write_pair (inFxOrder f s.frPair).1 (inFxOrder f s.frPair).2 hs.mem_wf
    (n := ea.toNat) (by omega)
  rw [hu.fr, ht.mem, State.advancePc_mem, State.setMem_mem, hfst, hsnd, Prod.mk.eta, inFxOrder_inFxOrder]
  exact s.frPair_eq_fr

/-- Settles O11: each load in the state its store leaves. -/
theorem aStoreThenALoadReadsTheStoredWords : Obligations.AStoreThenALoadReadsTheStoredWords := by
  refine ⟨fun r ix q jx a b s hs hlo hhi hb => ?word, fun fx ix addr s junk hs hfx hlo hhi => ?pair⟩
  case word => exact ldr_after_str hs rfl rfl ⟨hlo, hhi⟩ hb
  case pair =>
    rcases hfx with rfl | rfl
    · exact ldfr_after_stfr (f := 0) junk hs rfl rfl ⟨hlo, hhi⟩
    · exact ldfr_after_stfr (f := 1) junk hs rfl rfl ⟨hlo, hhi⟩

end Sys2Proof.Machine

/-!
The encoding (spec/30_encoding.md R300 to R333): what the opcode map selects, and that the fields of each format
are all of a word's ten operand bits.
-/

namespace Sys2Proof

open Sys2Proof.Machine Sys2Proof.Safety Sys2Proof.Laws

/-! ### The opcode map (R320, R331) -/

theorem Mnemonic.mem_all (m : Mnemonic) : m ∈ Mnemonic.all := by cases m <;> decide

section
variable {om : Mnemonic → BitVec 6} {op : BitVec 6} {m : Mnemonic}

/-- Only an opcode outside the image of the map selects nothing (R331). -/
theorem mnemonicOf_eq_none_iff : mnemonicOf om op = none ↔ ∀ m, om m ≠ op := by
  simp [mnemonicOf, List.find?_eq_none, Mnemonic.mem_all]

theorem opcode_of_mnemonicOf (h : mnemonicOf om op = some m) : om m = op :=
  beq_iff_eq.1 (List.find?_some (p := fun m => om m == op) h)

/-- Under an injective map an opcode selects the mnemonic it is assigned to (R320). -/
theorem mnemonicOf_of_opcode (hom : ∀ m n, om m = om n → m = n) (h : om m = op) :
    mnemonicOf om op = some m := by
  cases hn : mnemonicOf om op with
  | none => exact absurd h (mnemonicOf_eq_none_iff.1 hn m)
  | some n => rw [hom n m ((opcode_of_mnemonicOf hn).trans h.symm)]

/-! ### The decoder, by the opcode -/

variable {w : Word}

theorem decodeWith_of_opcode (hom : ∀ m n, om m = om n → m = n) (h : om m = opcodeField w) :
    decodeWith om w = .ok (decodeFields m w) := by
  rw [decodeWith, mnemonicOf_of_opcode hom h]

theorem decodeWith_of_unassigned (h : ∀ m, om m ≠ opcodeField w) :
    decodeWith om w = .error (.unassignedOpcode (opcodeField w)) := by
  rw [decodeWith, mnemonicOf_eq_none_iff.2 h]

/-- A word that decodes has the opcode of some mnemonic and is read by its format. -/
theorem decodeWith_eq_ok {i : Instr} (h : decodeWith om w = .ok i) :
    ∃ m, om m = opcodeField w ∧ decodeFields m w = i := by
  rw [decodeWith] at h
  split at h
  · exact ⟨_, opcode_of_mnemonicOf ‹_›, Except.ok.inj h⟩
  · cases h

/-- A word is either read by the format of a mnemonic or rejected with its opcode. -/
theorem decodeWith_cases (om : Mnemonic → BitVec 6) (w : Word) :
    (∃ m, om m = opcodeField w ∧ decodeWith om w = .ok (decodeFields m w)) ∨
    ((∀ m, om m ≠ opcodeField w) ∧ decodeWith om w = .error (.unassignedOpcode (opcodeField w))) := by
  rw [decodeWith]
  split
  · exact .inl ⟨_, opcode_of_mnemonicOf ‹_›, rfl⟩
  · exact .inr ⟨mnemonicOf_eq_none_iff.1 ‹_›, rfl⟩

end

/-! ### The fields of a word -/

@[simp] theorem decodeFields_mnemonic (m : Mnemonic) (w : Word) : (decodeFields m w).mnemonic = m := by
  cases m <;> rfl

theorem addrField_lt (w : Word) : addrField w < 32 := BitVec.isLt _

theorem countField_lt (w : Word) : countField w < 16 := BitVec.isLt _

/-- The fields a word gives an instruction are ones its encoding holds (R309). -/
theorem decodeFields_wellFormed (m : Mnemonic) (w : Word) : (decodeFields m w).wellFormed = true := by
  have haddr := addrField_lt w
  have hcount := countField_lt w
  cases m <;> simp [decodeFields, Instr.wellFormed, haddr, hcount]

section
variable (w : Word)

theorem selBits_rxField : selBits (rxField w) = w.extractLsb' 8 2 := rfl

theorem selBits_ixField : selBits (ixField w) = w.extractLsb' 6 2 := rfl

theorem ofBool_getLsbD {n : Nat} (x : BitVec n) (k : Nat) : BitVec.ofBool (x.getLsbD k) = x.extractLsb' k 1 := by
  refine BitVec.eq_of_getLsbD_eq fun i hi => ?_
  obtain rfl : i = 0 := by omega
  simp

theorem ofNat_addrField : BitVec.ofNat 5 (addrField w) = w.extractLsb' 0 5 := by
  rw [addrField, BitVec.ofNat_toNat, BitVec.setWidth_eq]

theorem ofNat_countField : BitVec.ofNat 4 (countField w) = w.extractLsb' 0 4 := by
  rw [countField, BitVec.ofNat_toNat, BitVec.setWidth_eq]

end

/-! ### The operand bits of the fields a word is read into -/

theorem operandsM_fields (w : Word) :
    operandsM (rxBits w) (ixField w) (indField w) (addrField w) = w.extractLsb' 0 10 := by
  rw [operandsM, selBits_ixField, indField, ofBool_getLsbD, ofNat_addrField, rxBits]
  simp only [BitVec.extractLsb'_append_extractLsb'_eq_extractLsb']

theorem operandsRR_fields (w : Word) :
    operandsRR (rxField w) (ixField w) (w.extractLsb' 0 6) = w.extractLsb' 0 10 := by
  rw [operandsRR, selBits_rxField, selBits_ixField]
  simp only [BitVec.extractLsb'_append_extractLsb'_eq_extractLsb']

theorem operandsSH_fields (w : Word) :
    operandsSH (rxField w) (alField w) (lrField w) (w.extractLsb' 4 2) (countField w) =
      w.extractLsb' 0 10 := by
  rw [operandsSH, selBits_rxField, alField, lrField, ofBool_getLsbD, ofBool_getLsbD, ofNat_countField]
  simp only [BitVec.extractLsb'_append_extractLsb'_eq_extractLsb']

theorem operandsIO_fields (w : Word) :
    operandsIO (rxField w) (w.extractLsb' 5 3) (addrField w) = w.extractLsb' 0 10 := by
  rw [operandsIO, selBits_rxField, ofNat_addrField]
  simp only [BitVec.extractLsb'_append_extractLsb'_eq_extractLsb']

theorem operandBits_decodeFields (m : Mnemonic) (w : Word) :
    operandBits (decodeFields m w) = w.extractLsb' 0 10 := by
  cases m with
  | hlt => rfl
  | not => exact BitVec.extractLsb'_append_extractLsb'_eq_extractLsb' rfl
  | trap =>
    rw [decodeFields, operandBits, ofNat_countField]
    exact BitVec.extractLsb'_append_extractLsb'_eq_extractLsb' rfl
  | mlt | dvd | trr | and | orr => exact operandsRR_fields w
  | src | rrc => exact operandsSH_fields w
  | inp | out | chk => exact operandsIO_fields w
  | _ => exact operandsM_fields w

/-- The fields a word is read into under its own opcode are encoded as that word (R300). -/
theorem encodeWith_decodeFields {om : Mnemonic → BitVec 6} {m : Mnemonic} {w : Word}
    (h : om m = opcodeField w) : encodeWith om (decodeFields m w) = w := by
  rw [encodeWith, decodeFields_mnemonic, operandBits_decodeFields, h, opcodeField]
  exact (BitVec.extractLsb'_append_extractLsb'_eq_extractLsb' rfl).trans BitVec.extractLsb'_eq_self

/-! ### The operand bits determine the fields -/

section
variable {m n : Nat}

theorem append_eq_append {a c : BitVec m} {b d : BitVec n} (h : a ++ b = c ++ d) : a = c ∧ b = d := by
  have hhi := congrArg (BitVec.extractLsb' n m) h
  have hlo := congrArg (BitVec.extractLsb' 0 n) h
  rw [BitVec.extractLsb'_append_eq_left, BitVec.extractLsb'_append_eq_left] at hhi
  rw [BitVec.extractLsb'_append_eq_right, BitVec.extractLsb'_append_eq_right] at hlo
  exact ⟨hhi, hlo⟩

theorem eq_of_ofNat_eq {a b : Nat} (h : BitVec.ofNat n a = BitVec.ofNat n b) (ha : a < 2 ^ n) (hb : b < 2 ^ n) :
    a = b := by
  have := congrArg BitVec.toNat h
  rwa [BitVec.toNat_ofNat, BitVec.toNat_ofNat, Nat.mod_eq_of_lt ha, Nat.mod_eq_of_lt hb] at this

theorem selBits_injective {r q : Fin 4} (h : selBits r = selBits q) : r = q := BitVec.ofFin.inj h

end

section
variable {w : Word}

theorem fields_of_operandsM {rx : BitVec 2} {ix : Fin 4} {ind : Bool} {addr : Nat}
    (h : w.extractLsb' 0 10 = operandsM rx ix ind addr) (ha : addr < 32) :
    rxBits w = rx ∧ ixField w = ix ∧ indField w = ind ∧ addrField w = addr := by
  obtain ⟨hhigh, haddr⟩ := append_eq_append ((operandsM_fields w).trans h)
  obtain ⟨hsel, hind⟩ := append_eq_append hhigh
  obtain ⟨hrx, hix⟩ := append_eq_append hsel
  exact ⟨hrx, selBits_injective hix, BitVec.ofBool_eq_iff_eq.1 hind,
    eq_of_ofNat_eq haddr (addrField_lt w) ha⟩

theorem fields_of_operandsRR {rx ry : Fin 4} {u : BitVec 6} (h : w.extractLsb' 0 10 = operandsRR rx ry u) :
    rxField w = rx ∧ ixField w = ry ∧ w.extractLsb' 0 6 = u := by
  obtain ⟨hsel, hu⟩ := append_eq_append ((operandsRR_fields w).trans h)
  obtain ⟨hrx, hry⟩ := append_eq_append hsel
  exact ⟨selBits_injective hrx, selBits_injective hry, hu⟩

theorem fields_of_operandsSH {r : Fin 4} {al lr : Bool} {u : BitVec 2} {count : Nat}
    (h : w.extractLsb' 0 10 = operandsSH r al lr u count) (hc : count < 16) :
    rxField w = r ∧ alField w = al ∧ lrField w = lr ∧ w.extractLsb' 4 2 = u ∧ countField w = count := by
  obtain ⟨hhigh, hcount⟩ := append_eq_append ((operandsSH_fields w).trans h)
  obtain ⟨hflags, hu⟩ := append_eq_append hhigh
  obtain ⟨hsel, hlr⟩ := append_eq_append hflags
  obtain ⟨hr, hal⟩ := append_eq_append hsel
  exact ⟨selBits_injective hr, BitVec.ofBool_eq_iff_eq.1 hal, BitVec.ofBool_eq_iff_eq.1 hlr, hu,
    eq_of_ofNat_eq hcount (countField_lt w) hc⟩

theorem fields_of_operandsIO {r : Fin 4} {u : BitVec 3} {devid : Nat}
    (h : w.extractLsb' 0 10 = operandsIO r u devid) (hd : devid < 32) :
    rxField w = r ∧ w.extractLsb' 5 3 = u ∧ addrField w = devid := by
  obtain ⟨hhigh, hdevid⟩ := append_eq_append ((operandsIO_fields w).trans h)
  obtain ⟨hr, hu⟩ := append_eq_append hhigh
  exact ⟨selBits_injective hr, hu, eq_of_ofNat_eq hdevid (addrField_lt w) hd⟩

/-- A word whose low ten bits are the operand bits of `i` is read into `i` by its format. -/
theorem decodeFields_of_operandBits {i : Instr} (h : w.extractLsb' 0 10 = operandBits i)
    (hi : i.wellFormed = true) : decodeFields i.mnemonic w = i := by
  have hfields := (operandBits_decodeFields i.mnemonic w).trans h
  cases i with
  | hlt u => exact congrArg Instr.hlt h
  | not rx u =>
    obtain ⟨hrx, hu⟩ := append_eq_append hfields
    rw [Instr.mnemonic, decodeFields, selBits_injective hrx, hu]
  | trap u code =>
    obtain ⟨hu, hcode⟩ := append_eq_append hfields
    rw [Instr.mnemonic, decodeFields, hu,
      eq_of_ofNat_eq hcode (countField_lt w) (of_decide_eq_true hi)]
  | mlt rx ry u | dvd rx ry u | trr rx ry u | and rx ry u | orr rx ry u =>
    obtain ⟨hrx, hry, hu⟩ := fields_of_operandsRR h
    rw [Instr.mnemonic, decodeFields, hrx, hry, hu]
  | src r al lr u c | rrc r al lr u c =>
    obtain ⟨hr, hal, hlr, hu, hc⟩ := fields_of_operandsSH h (of_decide_eq_true hi)
    rw [Instr.mnemonic, decodeFields, hr, hal, hlr, hu, hc]
  | inp r u d | out r u d | chk r u d =>
    obtain ⟨hr, hu, hd⟩ := fields_of_operandsIO h (of_decide_eq_true hi)
    rw [Instr.mnemonic, decodeFields, hr, hu, hd]
  | jma rx ix ind a | jsr rx ix ind a | rfs rx ix ind a | ldx rx ix ind a | stx rx ix ind a =>
    obtain ⟨hrx, hix, hind, ha⟩ := fields_of_operandsM h (of_decide_eq_true hi)
    rw [Instr.mnemonic, decodeFields, hrx, hix, hind, ha]
  | ldr r ix ind a | str r ix ind a | lda r ix ind a | amr r ix ind a | smr r ix ind a
  | air r ix ind a | sir r ix ind a | jz r ix ind a | jne r ix ind a | jcc r ix ind a
  | sob r ix ind a | jge r ix ind a | fadd r ix ind a | fsub r ix ind a | vadd r ix ind a
  | vsub r ix ind a | cnvrt r ix ind a | ldfr r ix ind a | stfr r ix ind a =>
    obtain ⟨hr, hix, hind, ha⟩ := fields_of_operandsM h (of_decide_eq_true hi)
    rw [Instr.mnemonic, decodeFields, show rxField w = r from selBits_injective hr, hix, hind, ha]

end

/-- Settles O2: the opcode selects the mnemonic, the operand bits determine the fields. -/
theorem decodeInvertsEncodeUnderEveryOpcodeMap : Obligations.DecodeInvertsEncodeUnderEveryOpcodeMap := by
  have hround : ∀ (om : Mnemonic → BitVec 6) (i : Instr), (∀ m n, om m = om n → m = n) →
      i.wellFormed = true → decodeWith om (encodeWith om i) = .ok i := by
    intro om i hom hi
    obtain ⟨hop, hbits⟩ := EncodedFields.of_any i om
    rw [decodeWith_of_opcode hom hop.symm, decodeFields_of_operandBits hbits hi]
  exact ⟨hround, fun i => hround _ i params_legal.opcodeMap_injective⟩

/-- Settles O3: the fields of a word are bounded by their widths and are all of its bits. -/
theorem encodeInvertsDecode : Obligations.EncodeInvertsDecode := by
  intro w i h
  obtain ⟨m, hop, rfl⟩ := decodeWith_eq_ok h
  exact ⟨decodeFields_wellFormed m w, encodeWith_decodeFields hop⟩

/-- The values of R331 are the complement of the image of the default map. -/
theorem opcode_unassigned_iff (op : BitVec 6) : (∀ m, Config.opcodeMap m ≠ op) ↔
    op.toNat ∈ [22, 23, 32, 35, 36, 37, 38, 39, 42, 43, 44, 45, 46, 47, 48, 52, 53, 54, 55, 56, 57, 58, 59,
      60, 61, 62, 63] := by
  rw [← mnemonicOf_eq_none_iff]
  revert op
  decide

theorem decode_eq_unassigned_iff (w : Word) : decode w = .error (.unassignedOpcode (opcodeField w)) ↔
    ∀ m, Config.opcodeMap m ≠ opcodeField w := by
  refine ⟨fun h m hm => ?_, decodeWith_of_unassigned⟩
  cases h.symm.trans (decodeWith_of_opcode params_legal.opcodeMap_injective hm)

/-- Settles O4: the opcode's value decides. -/
theorem unassignedOpcodesAreTheTwentySeven : Obligations.UnassignedOpcodesAreTheTwentySeven := by
  refine ⟨fun w => ?values, fun w => ?total, fun om op => mnemonicOf_eq_none_iff⟩
  case values => exact (decode_eq_unassigned_iff w).trans (opcode_unassigned_iff _)
  case total =>
    rcases decodeWith_cases Config.opcodeMap w with ⟨m, -, h⟩ | ⟨-, h⟩
    · exact .inl ⟨_, h⟩
    · exact .inr h

/-- Settles O5: the handler is that of the fields read from IR, whose word is IR. -/
theorem theOpcodeSelectsTheHandlerThroughTheOpcodeMap :
    Obligations.TheOpcodeSelectsTheHandlerThroughTheOpcodeMap := by
  intro p s hom
  refine ⟨fun m hm => ⟨decodeFields m s.ir, decodeFields_mnemonic m s.ir, encodeWith_decodeFields hm, ?_⟩,
    fun h => ?_⟩
  · exact executeIRWith_of_decode (decodeWith_of_opcode hom hm)
  · exact executeIRWith_of_unassigned (decodeWith_of_unassigned h)

/-- Settles O6: the opcode selects the format, and each field is its bits. -/
theorem immediateTrapAndHaltWordsReadTheirFields : Obligations.ImmediateTrapAndHaltWordsReadTheirFields := by
  intro om w hom
  have hdecode {m : Mnemonic} (h : w.extractLsb' 10 6 = om m) : decodeWith om w = .ok (decodeFields m w) :=
    decodeWith_of_opcode hom h.symm
  refine ⟨fun rx ix hrx hix => ?_, hdecode, hdecode⟩
  obtain rfl : rx = rxField w := Fin.ext hrx
  obtain rfl : ix = ixField w := Fin.ext hix
  exact ⟨hdecode, hdecode, hdecode⟩

/-! ### The resolver's fields -/

section
variable (w : Word)

/-- One more bit above a field is the field's next higher binary digit. -/
theorem toNat_extract_succ (start len : Nat) : (w.extractLsb' start (len + 1)).toNat =
    2 ^ len * (w.getLsbD (start + len)).toNat + (w.extractLsb' start len).toNat := by
  rw [BitVec.extractLsb'_toNat, BitVec.extractLsb'_toNat, Nat.mod_pow_succ, BitVec.getLsbD,
    Nat.toNat_testBit, Nat.pow_add, ← Nat.div_div_eq_div_mul, Nat.shiftRight_eq_div_pow, Nat.add_comm]

/-- A field of a field of a word. -/
theorem extract_extract {start len k n : Nat} (h : start + len ≤ n) :
    (w.extractLsb' k n).extractLsb' start len = w.extractLsb' (k + start) len := by
  refine BitVec.eq_of_getLsbD_eq fun i hi => ?_
  have hin : start + i < n := by omega
  simp only [BitVec.getLsbD_extractLsb', hi, hin, decide_true, Bool.true_and, Nat.add_assoc]

theorem ofM_fields : EaFields.mk (ixField w) (indField w) (addrField w) = .ofWord w :=
  congrArg (EaFields.mk · _ _) (Fin.ext (Nat.mod_eq_of_lt (BitVec.isLt _)).symm)

theorem ofRR_fields : EaFields.ofRR (ixField w) (w.extractLsb' 0 6) = .ofWord w := by
  rw [← ofM_fields, EaFields.ofRR, extract_extract w (by decide)]
  simp [indField, addrField]

theorem ofNot_fields : EaFields.ofNot (w.extractLsb' 0 8) = .ofWord w := by
  simp [EaFields.ofNot, EaFields.ofWord, extract_extract]

theorem ofH_fields : EaFields.ofH (w.extractLsb' 0 10) = .ofWord w := by
  simp [EaFields.ofH, EaFields.ofWord, extract_extract]

theorem ofIO_fields : EaFields.ofIO (w.extractLsb' 5 3) (addrField w) = .ofWord w := by
  rw [EaFields.ofIO, extract_extract w (by decide)]
  simp [EaFields.ofWord, addrField]

theorem ofT_fields : EaFields.ofT (w.extractLsb' 4 6) (countField w) = .ofWord w := by
  rw [EaFields.ofT, EaFields.ofWord, extract_extract w (by decide),
    toNat_extract_succ w 0 4]
  simp [countField]

theorem ofSH_fields :
    EaFields.ofSH (alField w) (lrField w) (w.extractLsb' 4 2) (countField w) = .ofWord w := by
  rw [EaFields.ofSH, EaFields.ofWord, toNat_extract_succ w 6 1, toNat_extract_succ w 6 0,
    toNat_extract_succ w 0 4]
  simp [alField, lrField, countField]

end

/-- Whatever the format, the bits its fields are made of put the resolver's three fields at IR[7:6], IR[5] and
IR[4:0] (R312). -/
theorem fieldsOf_decodeFields (m : Mnemonic) (w : Word) :
    fieldsOf Config.params (decodeFields m w) = .ofWord w := by
  cases m with
  | hlt => exact ofH_fields w
  | not => exact ofNot_fields w
  | trap => exact ofT_fields w
  | mlt | dvd | trr | and | orr => exact ofRR_fields w
  | src | rrc => exact ofSH_fields w
  | inp | out | chk => exact ofIO_fields w
  | _ => exact ofM_fields w

/-- Settles O7: the resolver's fields of a decoded word are those of the word. -/
theorem resolverReadsTheSameBitsInEveryFormat : Obligations.ResolverReadsTheSameBitsInEveryFormat := by
  intro w i h
  obtain ⟨m, -, rfl⟩ := decodeWith_eq_ok h
  rw [fieldsOf_decodeFields]
  exact ⟨Nat.mod_eq_of_lt (BitVec.isLt (w.extractLsb' 6 2)), rfl, rfl⟩

/-- Settles O1: each word is evaluated. -/
theorem specWordsDecodeToTheirInstructions : Obligations.SpecWordsDecodeToTheirInstructions := by
  unfold Obligations.SpecWordsDecodeToTheirInstructions
  decide

end Sys2Proof

/-!
One step at its edges (spec/30_encoding.md R350 to R354): the fetch, a missing pointer word, a word with an
unassigned opcode, and the only way a step stops.
-/

namespace Sys2Proof.Machine

open Sys2Proof.Safety

/-! ### The resolver's fault (R310, R703) -/

/-- What R310 writes does not depend on MAR and MBR. -/
theorem scratched_setBuffers (f : EaFields) (s : State) (a : Nat) (v : Word) :
    scratched f (s.setBuffers a v) = (scratched f s).setBuffers a v := by
  unfold scratched
  split <;> rfl

/-- Whether the pointer word exists depends on the index registers only (R310). -/
theorem pointerReadable_congr {f : EaFields} {s t : State} (h : t.x = s.x) :
    PointerReadable f t ↔ PointerReadable f s := by
  rw [PointerReadable, PointerReadable, preAddress_congr f h]

/-- With a missing pointer the resolver raises, the scratch slot written. -/
theorem resolve_raises {f : EaFields} {s : State} (hp : ¬ PointerReadable f s) :
    ∃ t, resolve f s = raise .illegalAddress t ∧ AgreesWith t (scratched f s) := by
  obtain ⟨hind, hmissing⟩ := not_pointerReadable_iff.1 hp
  rcases resolve_cases f s with ⟨hi, -⟩ | ⟨-, e⟩
  · exact absurd (hi.symm.trans hind) Bool.false_ne_true
  · rw [indexedAddress_eq_preAddress, memRead_of_not_addressable hmissing] at e
    refine ⟨_, e, ?_⟩
    rw [scratched, if_pos hind]
    exact memWrite_agrees 6 _ (agreesWith_refl s)

theorem runHandler_of_raised {p : Config.Params} {f : EaFields} {s t : State} {k : FaultKind}
    (h : resolve f s = .raised k t) (g : Word → State → Res Ending) :
    runHandler p f g s = finish p (.raised k t) := by
  rw [runHandler, h, Res.raised_bind]

theorem runIo_of_raised {p : Config.Params} {f : EaFields} {s t : State} {k : FaultKind}
    (h : resolve f s = .raised k t) (g : State → IoEnd) : runIo p f g s = finish p (.raised k t) := by
  rw [runIo, h]

/-- What the resolver raises ends the step of every instruction, its handler not run (R703). -/
theorem reportWith_of_raised {p : Config.Params} {i : Instr} {s t : State} {k : FaultKind}
    (h : resolve (fieldsOf p i) s = .raised k t) : reportWith p i s = finish p (.raised k t) := by
  cases i with
  | inp r u d | out r u d | chk r u d => exact runIo_of_raised h _
  | _ => exact runHandler_of_raised h _

theorem reportsWith_of_missing_pointer {p : Config.Params} {i : Instr} {s : State} (hs : s.mfr = 0#4)
    (hp : ¬ PointerReadable (fieldsOf p i) s) :
    ReportsWith p i s (.faulted .illegalAddress)
      (faulted p .illegalAddress (scratched (fieldsOf p i) s)) := by
  obtain ⟨t, e, ht⟩ := resolve_raises hp
  obtain ⟨u, hfin, hu⟩ := ends_raise (p := p) .illegalAddress ht ((scratched_mfr _ s).trans hs)
  exact ⟨u, (reportWith_of_raised e).trans hfin, hu⟩

/-- Settles O9: the resolver raises before any handler. -/
theorem indirectReadFaultComesBeforeTheHandler : Obligations.IndirectReadFaultComesBeforeTheHandler :=
  ⟨fun _ _ hs hp => reaches_of_reportsWith (reportsWith_of_missing_pointer hs hp),
    fun _ _ _ => reportsWith_of_missing_pointer⟩

/-! ### The fetch (R350, R351) -/

/-- The state a fetch at an existing address leaves. -/
def State.fetched (s : State) : State :=
  (s.setBuffers s.pc.toNat (s.mem.read s.pc.toNat)).setIr (s.mem.read s.pc.toNat)

theorem fetched_agrees (s : State) : AgreesWith s.fetched (s.setIr (s.mem.read s.pc.toNat)) :=
  agreesWith_setBuffers _ _ (s.setIr _)

theorem fetch_inside {s : State} (h : s.pc.toNat ≤ 2047) : fetch s = .ok () s.fetched := by
  rcases fetch_cases s with ⟨-, e⟩ | ⟨hpc, -⟩
  · exact e
  · omega

theorem fetch_outside {s : State} (h : 2048 ≤ s.pc.toNat) : fetch s = raise .illegalAddress s := by
  rcases fetch_cases s with ⟨hpc, -⟩ | ⟨-, e⟩
  · omega
  · exact e

theorem stepWith_inside {s : State} (p : Config.Params) (h : s.pc.toNat ≤ 2047) :
    stepWith p s = executeIRWith p s.fetched := by
  rw [stepWith, fetch_inside h]

theorem stepWith_outside {s : State} (p : Config.Params) (h : 2048 ≤ s.pc.toNat) :
    stepWith p s = finish p (raise .illegalAddress s) := by
  rw [stepWith, fetch_outside h]
  rfl

theorem step_of_decode {s : State} {i : Instr} (h : s.pc.toNat ≤ 2047)
    (hi : decode (s.mem.read s.pc.toNat) = .ok i) : step s = exec i s.fetched := by
  rw [step_eq_toHost_stepWith, stepWith_inside _ h,
    executeIRWith_of_decode (p := Config.params) (s := s.fetched) hi, exec_eq_execWith, execWith]

theorem step_of_unassigned {s : State} {e : DecodeError} (h : s.pc.toNat ≤ 2047)
    (he : decode (s.mem.read s.pc.toNat) = .error e) :
    step s = (reportIllegal Config.params (s.mem.read s.pc.toNat) s.fetched).toHost := by
  rw [step_eq_toHost_stepWith, stepWith_inside _ h,
    executeIRWith_of_unassigned (p := Config.params) (s := s.fetched) he]
  rfl

/-- Settles O43: fetch, then decode. -/
theorem stepRunsTheDecodedInstruction : Obligations.StepRunsTheDecodedInstruction :=
  fun s _ h hi => ⟨s.fetched, fetched_agrees s, step_of_decode h hi⟩

/-- Settles O45: the fetch raises with nothing else done, and the fault is handled. -/
theorem fetchOutsideMemoryTakesIllegalAddress : Obligations.FetchOutsideMemoryTakesIllegalAddress := by
  intro s h hs
  constructor
  · rw [fetch_outside h, raise, hs]
    rfl
  · obtain ⟨t, e, ht⟩ := finish_raise Config.params .illegalAddress hs
    exact ⟨t, by rw [step_eq_toHost_stepWith, stepWith_outside _ h, e]; rfl, ht⟩

/-! ### The illegal-opcode handler (R651) -/

section
variable {p : Config.Params} {w : Word} {s : State}

theorem reportIllegal_of_pointerReadable (hs : s.mfr = 0#4) (hp : PointerReadable (.ofWord w) s) :
    ∃ t, reportIllegal p w s = .done (.faulted .illegalOpcode) t ∧
      AgreesWith t (faulted p .illegalOpcode (scratched (.ofWord w) s)) := by
  obtain ⟨t, e, ht⟩ := resolve_of_pointerReadable hp
  obtain ⟨u, hfin, hu⟩ := ends_raise (p := p) .illegalOpcode ht ((scratched_mfr _ s).trans hs)
  exact ⟨u, by rw [reportIllegal, runHandler, e]; exact hfin, hu⟩

theorem reportIllegal_of_missing_pointer (hs : s.mfr = 0#4) (hp : ¬ PointerReadable (.ofWord w) s) :
    ∃ t, reportIllegal p w s = .done (.faulted .illegalAddress) t ∧
      AgreesWith t (faulted p .illegalAddress (scratched (.ofWord w) s)) := by
  obtain ⟨t, e, ht⟩ := resolve_raises hp
  obtain ⟨u, hfin, hu⟩ := ends_raise (p := p) .illegalAddress ht ((scratched_mfr _ s).trans hs)
  exact ⟨u, (runHandler_of_raised e _).trans hfin, hu⟩

end

/-- A fault handled after the resolver, in agreeing states. -/
theorem faulted_scratched_agrees {p : Config.Params} {k : FaultKind} {f : EaFields} {t u : State}
    (h : AgreesWith t u) : AgreesWith (faulted p k (scratched f t)) (faulted p k (scratched f u)) :=
  agreesWith_map (fun s => faulted p k (scratched f s))
    (fun s a v => by rw [scratched_setBuffers]; rfl) h

/-- Settles O44: the illegal-opcode handler in the state the fetch leaves. -/
theorem stepOnAnUnassignedOpcodeTakesIllegalOpcode :
    Obligations.StepOnAnUnassignedOpcodeTakesIllegalOpcode := by
  intro s e hpc hs he w f s1
  have hp : PointerReadable f s.fetched ↔ PointerReadable f s := pointerReadable_congr rfl
  refine ⟨fun hr => ?readable, fun hr => ?missing⟩
  case readable =>
    obtain ⟨t, hrep, ht⟩ := reportIllegal_of_pointerReadable (p := Config.params) (s := s.fetched) hs (hp.2 hr)
    exact ⟨t, by rw [step_of_unassigned hpc he, hrep]; rfl,
      agreesWith_trans ht (faulted_scratched_agrees (fetched_agrees s))⟩
  case missing =>
    obtain ⟨t, hrep, ht⟩ :=
      reportIllegal_of_missing_pointer (p := Config.params) (s := s.fetched) hs (mt hp.1 hr)
    exact ⟨t, by rw [step_of_unassigned hpc he, hrep]; rfl,
      agreesWith_trans ht (faulted_scratched_agrees (fetched_agrees s))⟩

/-! ### A handler outside memory (R715) -/

/-- IllegalAddress sends control to the handler, whatever MFR held (R710, R712). -/
theorem finish_illegalAddress_pc (p : Config.Params) (s : State) :
    (finish p (raise .illegalAddress s)).state.pc = p.faultHandlerAddr := by
  have hbit : flagGet (mfrRaise .illegalAddress s.mfr) 0 = true := by
    rw [flagGet, mfrRaise, getMsbD_flagSet]; rfl
  have hne : mfrRaise .illegalAddress s.mfr ≠ 0#4 := fun h => by rw [h] at hbit; cases hbit
  have h := faultController_of_mfr_ne_zero p (s := s.setMfr (mfrRaise .illegalAddress s.mfr)) hne
  exact h.pc.trans (if_pos hbit)

theorem stepWith_outside_spins {p : Config.Params} {s : State} (h : 2048 ≤ s.pc.toNat) :
    ∃ t, stepWith p s = .done (.faulted .illegalAddress) t ∧ t.pc = p.faultHandlerAddr :=
  ⟨_, stepWith_outside p h, finish_illegalAddress_pc p s⟩

/-- Settles O57: induction over the steps, the last one a fetch fault. -/
theorem aHandlerOutsideMemorySpins : Obligations.AHandlerOutsideMemorySpins := by
  intro p env s hp hs
  induction env using List.reverseRecOn with
  | nil => exact ⟨s, rfl, hs, fun h => absurd rfl h⟩
  | append_singleton env e ih =>
    obtain ⟨t, hrun, ht, -⟩ := ih
    obtain ⟨u, hstep, hu⟩ := stepWith_outside_spins (p := p) (s := t.setDev (e t.dev)) ht
    refine ⟨u, ?_, hu ▸ hp, fun _ => hu⟩
    rw [runSteps_append_of_running [e] hrun]
    exact runSteps_singleton_running hstep nofun

/-! ### The only stop (R354, R708) -/

section
variable {p : Config.Params} {i : Instr} {s t u : State} {c : DeviceCall}

theorem reportWith_done_of_not_callsDevice (hi : callsDevice i.mnemonic = false) :
    ∃ o t, reportWith p i s = .done o t := by
  cases i with
  | inp | out | chk => cases hi
  | _ => exact ⟨_, _, rfl⟩

/-- What the resolver leaves when it yields (R310). -/
theorem agreesWith_of_resolve_ok {f : EaFields} {ea : Word} (h : resolve f s = .ok ea t) :
    AgreesWith t (scratched f s) := by
  by_cases hp : PointerReadable f s
  · obtain ⟨v, e, hv⟩ := resolve_of_pointerReadable hp
    rw [e] at h
    cases h
    exact hv
  · obtain ⟨v, e, -⟩ := resolve_raises hp
    rw [e] at h
    cases h

theorem handleInp_failed_setDev {r : Fin 4} {devid : Nat} (h : handleInp r devid t = .failed c u) :
    ∃ d, u = t.setDev d := by
  rcases handleInp_cases r devid t with ⟨-, e⟩ | ⟨-, v, -, e⟩ | ⟨-, -, e⟩ <;> rw [e] at h <;> cases h
  exact ⟨_, rfl⟩

theorem handleOut_failed_setDev {r : Fin 4} {devid : Nat} (h : handleOut r devid t = .failed c u) :
    ∃ d, u = t.setDev d := by
  rcases handleOut_cases r devid t with ⟨-, e⟩ | ⟨-, -, e⟩ | ⟨-, -, e⟩ <;> rw [e] at h <;> cases h
  exact ⟨_, rfl⟩

theorem handleChk_failed_setDev {r : Fin 4} {devid : Nat} (h : handleChk r devid t = .failed c u) :
    ∃ d, u = t.setDev d := by
  rcases handleChk_cases r devid t with ⟨-, -, e⟩ | ⟨b, -, e⟩ | ⟨-, -, e⟩ | ⟨-, -, e⟩ <;>
    rw [e] at h <;> cases h <;> exact ⟨t.dev, rfl⟩

/-- A HostError of an I/O instruction whose handler fails only with the devices changed leaves PC alone (R354). -/
theorem runIo_hostError_pc {f : EaFields} {h : State → IoEnd}
    (hh : ∀ v c u, h v = .failed c u → ∃ d, u = v.setDev d) (he : runIo p f h s = .hostError c t) :
    t.pc = s.pc := by
  unfold runIo at he
  cases hr : resolve f s with
  | raised k v => rw [hr] at he; cases he
  | ok ea v =>
    rw [hr] at he
    dsimp only at he
    cases hv : h v with
    | next u => rw [hv] at he; cases he
    | failed c' u =>
      rw [hv] at he
      cases he
      obtain ⟨d, rfl⟩ := hh v _ _ hv
      exact (agreesWith_of_resolve_ok hr).pc.trans (scratched_pc f s)

theorem reportWith_hostError (h : reportWith p i s = .hostError c t) :
    callsDevice i.mnemonic = true ∧ t.pc = s.pc := by
  cases i with
  | inp => exact ⟨rfl, runIo_hostError_pc (fun _ _ _ => handleInp_failed_setDev) h⟩
  | out => exact ⟨rfl, runIo_hostError_pc (fun _ _ _ => handleOut_failed_setDev) h⟩
  | chk => exact ⟨rfl, runIo_hostError_pc (fun _ _ _ => handleChk_failed_setDev) h⟩
  | _ => cases h

theorem ir_of_reportWith : (reportWith p i s).state.ir = s.ir := (does_reportWith p i s).ir_eq

theorem executeIRWith_hostError (h : executeIRWith p s = .hostError c t) :
    ∃ i, decodeWith p.opcodeMap t.ir = .ok i ∧ callsDevice i.mnemonic = true ∧ t.pc = s.pc := by
  cases hd : decodeWith p.opcodeMap s.ir with
  | error e => rw [executeIRWith_of_unassigned hd] at h; cases h
  | ok i =>
    rw [executeIRWith_of_decode hd] at h
    have hir : t.ir = s.ir := by rw [← ir_of_reportWith (p := p) (i := i) (s := s), h]; rfl
    exact ⟨i, hir ▸ hd, reportWith_hostError h⟩

theorem stepWith_hostError (h : stepWith p s = .hostError c t) :
    ∃ i, decodeWith p.opcodeMap t.ir = .ok i ∧ callsDevice i.mnemonic = true ∧ t.pc = s.pc := by
  rcases Nat.lt_or_ge s.pc.toNat 2048 with hpc | hpc
  · rw [stepWith_inside p (by omega)] at h
    obtain ⟨i, hi, hcalls, ht⟩ := executeIRWith_hostError h
    exact ⟨i, hi, hcalls, ht⟩
  · rw [stepWith_outside p hpc] at h
    cases h

end

theorem Report.toHost_ne_refused (r : Report) (why : Refusal) : r.toHost ≠ .refused why := by
  cases r <;> exact nofun

theorem Report.toHost_eq_fault {r : Report} {why : Fault} (h : r.toHost = .fault why) :
    ∃ c t, r = .hostError c t ∧ why = .hostError c t := by
  cases r with
  | done o t => cases h
  | hostError c t => cases h; exact ⟨c, t, rfl, rfl⟩

/-- Settles O56: a report is a next state or a HostError, and only a failed I/O handler reports the latter. -/
theorem onlyAFailedDeviceCallStopsAStep : Obligations.OnlyAFailedDeviceCallStopsAStep := by
  refine ⟨fun i s hi => ?next, fun s r => ?refused, fun s r h => ?fault⟩
  case next =>
    obtain ⟨o, t, h⟩ := reportWith_done_of_not_callsDevice (p := Config.params) (s := s) hi
    exact ⟨t, by rw [exec_eq_execWith, execWith, h]; rfl⟩
  case refused =>
    rw [step_eq_toHost_stepWith]
    exact Report.toHost_ne_refused _ r
  case fault =>
    rw [step_eq_toHost_stepWith] at h
    obtain ⟨c, t, hr, rfl⟩ := Report.toHost_eq_fault h
    obtain ⟨i, hi⟩ := stepWith_hostError hr
    exact ⟨c, t, i, rfl, hi⟩

end Sys2Proof.Machine

/-!
IN and CHK (spec/47_io.md R572, R574), and the trap return idiom (spec/46_trap.md R562).
-/

namespace Sys2Proof.Machine

open Sys2Proof.Safety

/-! ### IN -/

/-- The devices after a `KbdRead` (log entry 5). -/
def Devices.afterKbdRead (d : Devices) : Devices :=
  { d with
    kbdReadDraws := d.kbdReadDraws.tail
    kbdStatusDraws := d.kbdStatusDraws.tail
    calls := d.calls + 1 }

@[simp] theorem kbdRead_snd (d : Devices) : (kbdRead d).2 = d.afterKbdRead := rfl

theorem writeGpr_agrees {t u : State} (r : Fin 4) (v : Word) (h : AgreesWith t u) :
    AgreesWith (t.writeGpr r v) (u.writeGpr r v) :=
  agreesWith_map (State.writeGpr · r v) (fun _ _ _ => rfl) h

theorem setDev_agrees {t u : State} (d : Devices) (h : AgreesWith t u) :
    AgreesWith (t.setDev d) (u.setDev d) :=
  agreesWith_map (State.setDev · d) (fun _ _ _ => rfl) h

section
variable {r : Fin 4} {devid : Nat} {d : Devices} {t u : State}

theorem handleInp_other (h : devid ≠ 0) (r : Fin 4) (s : State) :
    handleInp r devid s = .next (s.writeGpr r 0#16) := if_neg h

/-- IN from the keyboard, its reply a word (R572). -/
theorem handleInp_read {v : Word} (ht : AgreesWith t u) (hd : u.dev = d) (h : (kbdRead d).1 = some v) :
    ∃ t', handleInp r 0 t = .next t' ∧ AgreesWith t' ((u.setDev d.afterKbdRead).writeGpr r v) := by
  subst hd
  rcases handleInp_cases r 0 t with ⟨hne, -⟩ | ⟨-, v', hv', e⟩ | ⟨-, hnone, -⟩
  · exact absurd rfl hne
  · rw [ht.dev, h] at hv'
    cases hv'
    rw [kbdRead_snd, ht.dev] at e
    exact ⟨_, e, writeGpr_agrees r v (setDev_agrees _ ht)⟩
  · rw [ht.dev, h] at hnone
    cases hnone

/-- IN from the keyboard, its reply a failure (R572, R708). -/
theorem handleInp_failed (ht : AgreesWith t u) (hd : u.dev = d) (h : (kbdRead d).1 = none) :
    ∃ t', handleInp r 0 t = .failed .kbdRead t' ∧ AgreesWith t' (u.setDev d.afterKbdRead) := by
  subst hd
  rcases handleInp_cases r 0 t with ⟨hne, -⟩ | ⟨-, v, hv, -⟩ | ⟨-, -, e⟩
  · exact absurd rfl hne
  · rw [ht.dev, h] at hv
    cases hv
  · rw [kbdRead_snd, ht.dev] at e
    exact ⟨_, e, setDev_agrees _ ht⟩

end

/-- Settles O30: the cases of the device id and of the reply. -/
theorem inReadsTheKeyboard : Obligations.InReadsTheKeyboard := by
  intro r u devid s i s1 reply called
  refine ⟨encode_and_opcode_mask .inp rfl (by decide), fun hready => ?_⟩
  obtain ⟨hs, hr⟩ := hready
  have hmfr : s1.mfr = 0#4 := (scratched_mfr _ s).trans hs
  have hdev : s1.dev = s.dev := scratched_dev _ s
  refine ⟨fun hid => ?other, fun hid v hread => ?read, fun hid hfail => ?failed⟩
  case other =>
    exact reaches_of_reportsWith (reportsWith_of_ioHandler rfl hr
      (fun t ht => ⟨_, handleInp_other hid r t, writeGpr_agrees r 0#16 ht⟩) hmfr)
  case read =>
    subst hid
    exact reaches_of_reportsWith
      (reportsWith_of_ioHandler rfl hr (fun _ ht => handleInp_read ht hdev hread) hmfr)
  case failed =>
    subst hid
    exact exec_fault_of_hostError
      (hostError_of_ioHandler rfl hr fun _ ht => handleInp_failed ht hdev hfail)

/-! ### CHK -/

/-- A status bit as the word CHK loads (R574). -/
theorem statusWord_eq (b : Bool) : statusWord b = if b then 1#16 else 0#16 := by cases b <;> rfl

section
variable {r : Fin 4} {u : BitVec 3} {devid : Nat} {s t : State}

theorem handleChk_no_device (h0 : devid ≠ 0) (h1 : devid ≠ 1) (r : Fin 4) (s : State) :
    handleChk r devid s = .next (s.writeGpr r 0#16) := (if_neg h0).trans (if_neg h1)

theorem handleChk_kbd {b : Bool} (h : kbdStatus t.dev = some b) :
    handleChk r 0 t = .next (t.writeGpr r (statusWord b)) := by
  rw [handleChk, if_pos rfl, h]

theorem handleChk_kbd_failed (h : kbdStatus t.dev = none) : handleChk r 0 t = .failed .kbdStatus t := by
  rw [handleChk, if_pos rfl, h]

theorem handleChk_prt {b : Bool} (h : prtStatus t.dev = some b) :
    handleChk r 1 t = .next (t.writeGpr r (statusWord b)) := by
  rw [handleChk, if_neg Nat.one_ne_zero, if_pos rfl, h]

theorem handleChk_prt_failed (h : prtStatus t.dev = none) : handleChk r 1 t = .failed .prtStatus t := by
  rw [handleChk, if_neg Nat.one_ne_zero, if_pos rfl, h]

/-- CHK when its handler, in the devices the instruction started with, loads `v` (R574). -/
theorem reaches_chk {v : Word} (hready : Ready (.chk r u devid) s)
    (hh : ∀ t : State, t.dev = s.dev → handleChk r devid t = .next (t.writeGpr r v)) :
    Reaches (.chk r u devid) s ((afterResolve (.chk r u devid) s).writeGpr r v).advancePc :=
  reaches_of_reportsWith (reportsWith_of_ioHandler rfl hready.pointer
    (fun t ht => ⟨_, hh t (ht.dev.trans (scratched_dev _ s)), writeGpr_agrees r v ht⟩)
    ((scratched_mfr _ s).trans hready.mfr_zero))

/-- CHK when its call fails in the devices the instruction started with (R574, R708). -/
theorem chk_hostError {c : DeviceCall} (hready : Ready (.chk r u devid) s)
    (hh : ∀ t : State, t.dev = s.dev → handleChk r devid t = .failed c t) :
    ∃ t, exec (.chk r u devid) s = .fault (.hostError c t) ∧
      AgreesWith t (afterResolve (.chk r u devid) s) :=
  exec_fault_of_hostError (hostError_of_ioHandler rfl hready.pointer
    fun t ht => ⟨t, hh t (ht.dev.trans (scratched_dev _ s)), ht⟩)

end

/-- Settles O32: the cases of the device id and of the reply. -/
theorem chkReadsTheDeviceStatus : Obligations.ChkReadsTheDeviceStatus := by
  intro r u devid s i s1 kbd prt word
  refine ⟨encode_and_opcode_mask .chk rfl (by decide), scratched_dev _ s, fun hready => ?_⟩
  refine ⟨fun h0 h1 => ?other, ?kbd, ?prt⟩
  case other => exact reaches_chk hready fun t _ => handleChk_no_device h0 h1 r t
  case kbd =>
    rintro rfl
    refine ⟨fun b hb => ?_, fun hfail => ?_⟩
    · rw [show word b = statusWord b from (statusWord_eq b).symm]
      exact reaches_chk hready fun t ht => handleChk_kbd (ht ▸ hb)
    · exact chk_hostError hready fun t ht => handleChk_kbd_failed (ht ▸ hfail)
  case prt =>
    rintro rfl
    refine ⟨fun b hb => ?_, fun hfail => ?_⟩
    · rw [show word b = statusWord b from (statusWord_eq b).symm]
      exact reaches_chk hready fun t ht => handleChk_prt (ht ▸ hb)
    · exact chk_hostError hready fun t ht => handleChk_prt_failed (ht ▸ hfail)

/-! ### The trap return idiom -/

section
variable {p : Config.Params} {s t u : State} {ea : Word}

/-- A transfer to an existing address (R460). -/
theorem ends_jumpTo (h : AgreesWith t u) (hu : u.mfr = 0#4) (ha : Addressable ea) :
    Ends p (jumpTo ea t) .ok (u.setPc (ea.setWidth 12)) := by
  rcases target_cases ea t with ⟨-, e⟩ | ⟨hn, -⟩
  · rw [jumpTo, e, Res.ok_bind]
    exact ends_jump _ h hu
  · exact absurd ha hn

/-- JMA to an existing address (R464). -/
theorem reportsWith_jma {rx : BitVec 2} {ix : Fin 4} {ind : Bool} {addr : Nat} (hs : s.mfr = 0#4)
    (hr : PointerReadable ⟨ix, ind, addr⟩ s) (hea : effectiveAddress ⟨ix, ind, addr⟩ s = ea)
    (ha : Addressable ea) :
    ReportsWith p (.jma rx ix ind addr) s .ok
      ((scratched ⟨ix, ind, addr⟩ s).setPc (ea.setWidth 12)) := by
  refine reportsWith_of_handler rfl hr fun t ht => ?_
  rw [hea]
  exact ends_jumpTo ht (by simpa using hs) ha

end

/-- An indirect jump through slot 2 goes to the address there: the resolver writes another slot (R310, R562). -/
theorem reaches_jma_through_slot_two {s : State} (hs : Inv s) (ha : Addressable (s.mem.read 2)) :
    Reaches (.jma 0#2 0 true 2) s
      ((s.setMem (s.mem.write 6 2#16)).setPc ((s.mem.read 2).setWidth 12)) := by
  have hslot : Addressable 2#16 := by unfold Addressable; decide
  have hne : (2#16).toNat ≠ 6 := by decide
  exact reaches_of_reportsWith
    (reportsWith_jma hs.mfr_zero (fun _ => hslot) (Memory.read_write_ne 2#16 hs.mem_wf hne) ha)

/-- Settles O58: the word is fetched and decoded, and jumps through slot 2. -/
theorem theTrapReturnIdiomReturns : Obligations.TheTrapReturnIdiomReturns := by
  intro s hs hpc hw ha
  have hdecode : decode (s.mem.read s.pc.toNat) = .ok (.jma 0#2 0 true 2) := by rw [hw]; decide
  obtain ⟨t, e, ht⟩ := reaches_jma_through_slot_two (s := s.fetched) (inv_congr hs rfl rfl) ha
  refine ⟨t, (step_of_decode hpc hdecode).trans e, agreesWith_trans ht ?_⟩
  rw [← hw]
  exact agreesWith_map
    (fun u => (u.setMem (u.mem.write 6 2#16)).setPc ((u.mem.read 2).setWidth 12)) (fun _ _ _ => rfl)
    (fetched_agrees s)

end Sys2Proof.Machine

/-!
LDR, STR and LDA at every effective address (spec/40_load_store.md R401, R402, R403).
-/

namespace Sys2Proof.Machine

open Sys2Proof.Safety

section
variable {p : Config.Params} {s u : State} {r ix : Fin 4} {ind : Bool} {addr : Nat}

/-- A handler that stores `v` at `ea` and ends: the three cases of a store (R208). -/
theorem ends_storeWrite_stored (p : Config.Params) (ea v : Word) (hu : u.mfr = 0#4) :
    ∃ o, ∀ t, AgreesWith t u →
      Ends p ((storeWrite (s16 ea) v t).bind fun _ t => .ok .next t) o (stored p ea v u) := by
  unfold stored
  split_ifs with hreserved hprogram
  · exact ⟨_, fun t ht => ends_storeWrite_bind_reserved ht hu hreserved⟩
  · exact ⟨_, fun t ht => ends_storeWrite_bind ht hprogram fun t' ht' => ends_next ht' hu⟩
  · have hmissing : ¬ Addressable ea := fun ⟨hlo, hhi⟩ => by omega
    exact ⟨_, fun t ht => ends_storeWrite_bind_missing ht hu hmissing⟩

/-- STR at any address: what it stores is the register the instruction started with (R402). -/
theorem reportsWith_str_stored (hs : s.mfr = 0#4) (hr : PointerReadable ⟨ix, ind, addr⟩ s) :
    ∃ o, ReportsWith p (.str r ix ind addr) s o
      (stored p (effectiveAddress ⟨ix, ind, addr⟩ s) (s.readGpr r) (scratched ⟨ix, ind, addr⟩ s)) := by
  obtain ⟨o, hends⟩ := ends_storeWrite_stored p _ (s.readGpr r) ((scratched_mfr _ s).trans hs)
  refine ⟨o, reportsWith_of_handler rfl hr fun t ht => ?_⟩
  rw [handleStr, readGpr_of_agrees ht, readGpr_scratched]
  exact hends t ht

/-- LDR at a missing address raises IllegalAddress (R401). -/
theorem reportsWith_ldr_missing (hs : s.mfr = 0#4) (hr : PointerReadable ⟨ix, ind, addr⟩ s)
    (ha : ¬ Addressable (effectiveAddress ⟨ix, ind, addr⟩ s)) :
    ReportsWith p (.ldr r ix ind addr) s (.faulted .illegalAddress)
      (faulted p .illegalAddress (scratched ⟨ix, ind, addr⟩ s)) :=
  reportsWith_of_handler rfl hr fun _ ht => ends_memRead_bind_missing ht ((scratched_mfr _ s).trans hs) ha

/-- LDA loads the effective address without accessing it (R403). -/
theorem reportsWith_lda (hs : s.mfr = 0#4) (hr : PointerReadable ⟨ix, ind, addr⟩ s) :
    ReportsWith p (.lda r ix ind addr) s .ok
      ((scratched ⟨ix, ind, addr⟩ s).writeGpr r (effectiveAddress ⟨ix, ind, addr⟩ s)).advancePc :=
  reportsWith_of_handler rfl hr fun _ ht =>
    ends_next (writeGpr_agrees r _ ht) ((scratched_mfr _ s).trans hs)

end

/-- Settles O12: whether the effective address exists. -/
theorem ldrLoadsTheWordAtTheEffectiveAddress : Obligations.LdrLoadsTheWordAtTheEffectiveAddress := by
  intro r ix ind addr s i s1 ea
  refine ⟨encode_and_opcode_mask .ldr rfl (by decide), fun hready => ⟨fun ha => ?load, fun ha => ?missing⟩⟩
  case load => exact reaches_of_reportsWith (reportsWith_ldr hready.mfr_zero hready.pointer ha)
  case missing => exact reaches_of_reportsWith (reportsWith_ldr_missing hready.mfr_zero hready.pointer ha)

/-- Settles O13: the cases of the address are those of a store. -/
theorem strStoresTheRegisterOrFaults : Obligations.StrStoresTheRegisterOrFaults := by
  intro r ix ind addr s i s1 ea
  refine ⟨encode_and_opcode_mask .str rfl (by decide), fun hready => ?_⟩
  obtain ⟨o, h⟩ := reportsWith_str_stored (r := r) hready.mfr_zero hready.pointer
  exact reaches_of_reportsWith h

/-- Settles O14: the handler makes no access, so no address faults. -/
theorem ldaLoadsTheAddressUnchecked : Obligations.LdaLoadsTheAddressUnchecked := by
  intro r ix ind addr s i s1 ea
  exact ⟨encode_and_opcode_mask .lda rfl (by decide), fun hready =>
    reaches_of_reportsWith (reportsWith_lda hready.mfr_zero hready.pointer)⟩

end Sys2Proof.Machine

/-!
AMR, SMR, AIR and SIR at every effective address (spec/41_arith.md R440 to R444).
-/

namespace Sys2Proof.Machine

open Sys2Proof.Safety

/-- The handler AMR and SMR share (R440, R441): the register becomes `op` of itself and the word at `ea`. -/
def updateByMemory (op : Word → Word → Word) (r : Fin 4) (ea : Word) (s : State) : Res Ending :=
  (memRead (s16 ea) s).bind fun m s => .ok .next (s.writeGpr r (op (s.readGpr r) m))

/-- The handler AIR and SIR share (R442, R443): the register becomes `op` of itself and the raw field. -/
def updateByImmediate (op : Word → Word → Word) (r : Fin 4) (immed : Nat) (_ea : Word) (s : State) :
    Res Ending :=
  .ok .next (s.writeGpr r (op (s.readGpr r) (immediate immed)))

theorem handleAmr_eq (r : Fin 4) : handleAmr r = updateByMemory (· + ·) r := by
  funext ea s
  simp only [handleAmr, updateByMemory, addWord_eq]

theorem handleSmr_eq (r : Fin 4) : handleSmr r = updateByMemory (· - ·) r := by
  funext ea s
  simp only [handleSmr, updateByMemory, subWord_eq]

theorem handleAir_eq (r : Fin 4) (immed : Nat) : handleAir r immed = updateByImmediate (· + ·) r immed := by
  funext ea s
  simp only [handleAir, updateByImmediate, addWord_eq]

theorem handleSir_eq (r : Fin 4) (immed : Nat) : handleSir r immed = updateByImmediate (· - ·) r immed := by
  funext ea s
  simp only [handleSir, updateByImmediate, subWord_eq]

section
variable {p : Config.Params} {i : Instr} {s t : State} {f : EaFields} {op : Word → Word → Word} {r : Fin 4}

/-- A handler that ends by combining a register with `m` starts from the register's value before the
instruction: the resolver writes no register (R310). -/
theorem ends_updateGpr (m : Word) (ht : AgreesWith t (scratched f s)) (hs : s.mfr = 0#4) :
    Ends p (.ok .next (t.writeGpr r (op (t.readGpr r) m))) .ok
      ((scratched f s).writeGpr r (op (s.readGpr r) m)).advancePc := by
  rw [readGpr_of_agrees ht, readGpr_scratched]
  exact ends_next (writeGpr_agrees r _ ht) ((scratched_mfr f s).trans hs)

/-- AMR and SMR at an existing address (R440, R441). -/
theorem reportsWith_updateByMemory (hi : reportWith p i s = runHandler p f (updateByMemory op r) s)
    (hs : s.mfr = 0#4) (hr : PointerReadable f s) (ha : Addressable (effectiveAddress f s)) :
    ReportsWith p i s .ok
      ((scratched f s).writeGpr r
        (op (s.readGpr r) ((scratched f s).mem.read (effectiveAddress f s).toNat))).advancePc :=
  reportsWith_of_handler hi hr fun _ ht => ends_memRead_bind ht ha fun _ ht' => ends_updateGpr _ ht' hs

/-- AMR and SMR at a missing address write no register (R440, R441). -/
theorem reportsWith_updateByMemory_missing (hi : reportWith p i s = runHandler p f (updateByMemory op r) s)
    (hs : s.mfr = 0#4) (hr : PointerReadable f s) (ha : ¬ Addressable (effectiveAddress f s)) :
    ReportsWith p i s (.faulted .illegalAddress) (faulted p .illegalAddress (scratched f s)) :=
  reportsWith_of_handler hi hr fun _ ht => ends_memRead_bind_missing ht ((scratched_mfr f s).trans hs) ha

/-- AIR and SIR take the raw field whatever the resolver made of it (R442, R443). -/
theorem reportsWith_updateByImmediate {immed : Nat}
    (hi : reportWith p i s = runHandler p f (updateByImmediate op r immed) s)
    (hs : s.mfr = 0#4) (hr : PointerReadable f s) :
    ReportsWith p i s .ok
      ((scratched f s).writeGpr r (op (s.readGpr r) (BitVec.ofNat 16 immed))).advancePc :=
  reportsWith_of_handler hi hr fun _ ht => ends_updateGpr _ ht hs

end

section
variable (p : Config.Params) (r ix : Fin 4) (ind : Bool) (addr : Nat) (s : State)

theorem reportWith_amr : reportWith p (.amr r ix ind addr) s =
    runHandler p ⟨ix, ind, addr⟩ (updateByMemory (· + ·) r) s := by
  rw [← handleAmr_eq]; rfl

theorem reportWith_smr : reportWith p (.smr r ix ind addr) s =
    runHandler p ⟨ix, ind, addr⟩ (updateByMemory (· - ·) r) s := by
  rw [← handleSmr_eq]; rfl

theorem reportWith_air : reportWith p (.air r ix ind addr) s =
    runHandler p ⟨ix, ind, addr⟩ (updateByImmediate (· + ·) r addr) s := by
  rw [← handleAir_eq]; rfl

theorem reportWith_sir : reportWith p (.sir r ix ind addr) s =
    runHandler p ⟨ix, ind, addr⟩ (updateByImmediate (· - ·) r addr) s := by
  rw [← handleSir_eq]; rfl

end

/-- Settles O16: AMR and SMR share a handler up to the operation, and so do AIR and SIR; only the first two
turn on whether the address exists. -/
theorem additionAndSubtractionWrapWithoutAFlag : Obligations.AdditionAndSubtractionWrapWithoutAFlag := by
  intro r ix ind addr s s1 ea
  refine ⟨⟨encode_and_opcode_mask .amr rfl (by decide), encode_and_opcode_mask .smr rfl (by decide),
    encode_and_opcode_mask .air rfl (by decide), encode_and_opcode_mask .sir rfl (by decide)⟩, fun hready => ?_⟩
  obtain ⟨hs, hr⟩ := hready
  have amr := reportWith_amr Config.params r ix ind addr s
  have smr := reportWith_smr Config.params r ix ind addr s
  have air := reportWith_air Config.params r ix ind addr s
  have sir := reportWith_sir Config.params r ix ind addr s
  refine ⟨fun ha => ⟨?add, ?subtract⟩, fun ha => ⟨?addMissing, ?subtractMissing⟩, ?addField, ?subtractField⟩
  case add => exact reaches_of_reportsWith (reportsWith_updateByMemory amr hs hr ha)
  case subtract => exact reaches_of_reportsWith (reportsWith_updateByMemory smr hs hr ha)
  case addMissing => exact reaches_of_reportsWith (reportsWith_updateByMemory_missing amr hs hr ha)
  case subtractMissing => exact reaches_of_reportsWith (reportsWith_updateByMemory_missing smr hs hr ha)
  case addField => exact reaches_of_reportsWith (reportsWith_updateByImmediate air hs hr)
  case subtractField => exact reaches_of_reportsWith (reportsWith_updateByImmediate sir hs hr)

end Sys2Proof.Machine

/-!
JZ, JNE, JCC, JMA, JGE, JSR, RFS and SOB at every effective address (spec/42_branch.md R460 to R468).
-/

namespace Sys2Proof.Machine

open Sys2Proof.Safety

/-- An instruction reaches `u` when its handler, run on the effective address in any state the resolver may
leave, ends in `u` with whatever outcome (R350). -/
theorem reaches_of_handler {i : Instr} {s u : State} {f : EaFields} {h : Word → State → Res Ending}
    (hi : reportWith Config.params i s = runHandler Config.params f h s) (hp : PointerReadable f s)
    (hh : ∀ t, AgreesWith t (scratched f s) → ∃ o, Ends Config.params (h (effectiveAddress f s) t) o u) :
    Reaches i s u := by
  obtain ⟨t, e, ht⟩ := resolve_of_pointerReadable hp
  obtain ⟨o, v, hfin, hv⟩ := hh t ht
  exact reaches_of_reportsWith (o := o) ⟨v, by rw [hi, runHandler, e, Res.ok_bind, hfin], hv⟩

/-! ### A transfer and a branch, whatever the address (R460) -/

section
variable {p : Config.Params} {t u v : State}

/-- A handler that checks its target and only then makes its other effect `F`: both, or neither and the fault
handled. -/
theorem ends_target_bind {F : State → State} (ea : Word) (h : AgreesWith t u) (hu : u.mfr = 0#4)
    (hF : AgreesWith (F t) v) (hv : v.mfr = 0#4) :
    ∃ o, Ends p ((target ea t).bind fun pc s => .ok (.jump pc) (F s)) o (transferred p ea u v) := by
  rcases target_cases ea t with ⟨ha, e⟩ | ⟨ha, e⟩
  · rw [e, Res.ok_bind, transferred, if_pos ha]
    exact ⟨_, ends_jump _ hF hv⟩
  · rw [e, raise_bind, transferred, if_neg ha]
    exact ⟨_, ends_raise _ h hu⟩

theorem ends_jumpTo_transferred (ea : Word) (h : AgreesWith t u) (hu : u.mfr = 0#4) :
    ∃ o, Ends p (jumpTo ea t) o (transferred p ea u u) :=
  ends_target_bind (F := fun s => s) ea h hu h hu

/-- Only a taken branch checks its target. -/
theorem ends_branchIf {c : Prop} [Decidable c] (ea : Word) (h : AgreesWith t u) (hu : u.mfr = 0#4) :
    ∃ o, Ends p (branchIf (decide c) ea t) o (if c then transferred p ea u u else u.advancePc) := by
  by_cases hc : c
  · rw [branchIf, decide_eq_true hc, if_pos rfl, if_pos hc]
    exact ends_jumpTo_transferred ea h hu
  · rw [branchIf, decide_eq_false hc, if_neg Bool.false_ne_true, if_neg hc]
    exact ⟨_, ends_next h hu⟩

end

/-! ### JZ, JNE, JGE and SOB -/

/-- The handler JZ, JNE, JGE and SOB share: a branch on a test of one register (R461, R462, R465, R468). -/
def branchOn (test : Word → Prop) [DecidablePred test] (r : Fin 4) (ea : Word) (s : State) : Res Ending :=
  branchIf (decide (test (s.readGpr r))) ea s

theorem handleJz_eq (r : Fin 4) : handleJz r = branchOn (fun v => v = 0#16) r := rfl
theorem handleJne_eq (r : Fin 4) : handleJne r = branchOn (fun v => v ≠ 0#16) r := rfl
theorem handleJge_eq (r : Fin 4) : handleJge r = branchOn (fun v => 0 ≤ v.toInt) r := rfl
theorem handleSob_eq (r : Fin 4) : handleSob r = branchOn (fun v => 0 < v.toInt) r := rfl

/-- A branch on a register tests the value it held before the instruction: the resolver writes no register
(R310). -/
theorem reaches_branchOn {i : Instr} {s : State} {f : EaFields} {r : Fin 4} (test : Word → Prop)
    [DecidablePred test]
    (hi : reportWith Config.params i s = runHandler Config.params f (branchOn test r) s)
    (hs : s.mfr = 0#4) (hr : PointerReadable f s) :
    Reaches i s (if test (s.readGpr r)
      then transferred Config.params (effectiveAddress f s) (scratched f s) (scratched f s)
      else (scratched f s).advancePc) := by
  refine reaches_of_handler hi hr fun t ht => ?_
  simp only [branchOn, readGpr_of_agrees ht, readGpr_scratched]
  exact ends_branchIf _ ht ((scratched_mfr f s).trans hs)

/-- Settles O17: the four share a handler up to the test of the register. -/
theorem registerBranchesTestOneRegister : Obligations.RegisterBranchesTestOneRegister := by
  intro r ix ind addr s s1 taken v
  refine ⟨⟨encode_and_opcode_mask .jz rfl (by decide), encode_and_opcode_mask .jne rfl (by decide),
    encode_and_opcode_mask .jge rfl (by decide), encode_and_opcode_mask .sob rfl (by decide)⟩, fun hready => ?_⟩
  obtain ⟨hs, hr⟩ := hready
  refine ⟨?zero, ?nonzero, ?nonnegative, ?positive⟩
  case zero => exact reaches_branchOn (fun v => v = 0#16) (by rw [← handleJz_eq]; rfl) hs hr
  case nonzero =>
    rw [← ite_not]
    exact reaches_branchOn (fun v => v ≠ 0#16) (by rw [← handleJne_eq]; rfl) hs hr
  case nonnegative => exact reaches_branchOn (fun v => 0 ≤ v.toInt) (by rw [← handleJge_eq]; rfl) hs hr
  case positive => exact reaches_branchOn (fun v => 0 < v.toInt) (by rw [← handleSob_eq]; rfl) hs hr

/-! ### JCC -/

theorem setCc_agrees {t u : State} (cc : BitVec 4) (h : AgreesWith t u) :
    AgreesWith (t.setCc cc) (u.setCc cc) :=
  agreesWith_map (State.setCc · cc) (fun _ _ _ => rfl) h

section
variable {cc ix : Fin 4} {ind : Bool} {addr : Nat} {s : State} {ea : Word}

theorem handleJcc_of_clear (h : s.cc.getMsbD cc = false) : handleJcc cc ea s = .ok .next s :=
  if_neg (Bool.eq_false_iff.1 h)

theorem handleJcc_of_set (h : s.cc.getMsbD cc = true) :
    handleJcc cc ea s = (target ea s).bind fun pc t => .ok (.jump pc) (t.setCc (flagClear t.cc cc)) :=
  if_pos h

/-- JCC on a clear flag is not taken (R463). -/
theorem reaches_jcc_of_clear (hready : Ready (.jcc cc ix ind addr) s) (h : s.cc.getMsbD cc = false) :
    Reaches (.jcc cc ix ind addr) s (afterResolve (.jcc cc ix ind addr) s).advancePc := by
  refine reaches_of_handler rfl hready.pointer fun t ht => ?_
  rw [handleJcc_of_clear (by rw [ht.cc, scratched_cc, h])]
  exact ⟨_, ends_next ht ((scratched_mfr _ s).trans hready.mfr_zero)⟩

/-- JCC on a set flag checks its target, then clears the flag (R463). -/
theorem reaches_jcc_of_set (hready : Ready (.jcc cc ix ind addr) s) (h : s.cc.getMsbD cc = true) :
    Reaches (.jcc cc ix ind addr) s
      (transferred Config.params (eaOf (.jcc cc ix ind addr) s) (afterResolve (.jcc cc ix ind addr) s)
        ((afterResolve (.jcc cc ix ind addr) s).setCc (flagClear s.cc cc))) := by
  have hmfr := (scratched_mfr ⟨ix, ind, addr⟩ s).trans hready.mfr_zero
  refine reaches_of_handler rfl hready.pointer fun t ht => ?_
  have hcc : t.cc = s.cc := ht.cc.trans (scratched_cc _ s)
  rw [handleJcc_of_set (by rw [hcc, h])]
  exact ends_target_bind _ ht hmfr (hcc ▸ setCc_agrees _ ht) hmfr

end

/-- Settles O18: whether the tested flag is set; the codes after a taken JCC are those with it cleared. -/
theorem jccConsumesTheFlagItTests : Obligations.JccConsumesTheFlagItTests := by
  intro cc ix ind addr s i s1 ea
  refine ⟨encode_and_opcode_mask .jcc rfl (by decide), fun hready => ⟨fun h => ?clear, fun h => ?set⟩⟩
  case clear => exact reaches_jcc_of_clear hready h
  case set => exact ⟨flagClear s.cc cc, getMsbD_flagClear s.cc cc, reaches_jcc_of_set hready h⟩

/-! ### JMA, JSR and RFS -/

/-- Settles O19: the handler is the transfer alone. -/
theorem jmaAlwaysTransfers : Obligations.JmaAlwaysTransfers := by
  intro rx ix ind addr s i s1 ea
  refine ⟨encode_and_opcode_mask .jma rfl (by decide), fun hready => ?_⟩
  exact reaches_of_handler rfl hready.pointer fun t ht =>
    ends_jumpTo_transferred _ ht ((scratched_mfr _ s).trans hready.mfr_zero)

/-- One more than a number, wrapped, as a word of the number (R11). -/
theorem wrap16_succ (n : Nat) : wrap16 ((n : Int) + 1) = BitVec.ofNat 16 (n + 1) :=
  BitVec.ofInt_natCast 16 (n + 1)

theorem ofNat_toNat_succ (w : Word) : BitVec.ofNat 16 (w.toNat + 1) = w + 1#16 := by
  rw [BitVec.ofNat_add, BitVec.ofNat_toNat, BitVec.setWidth_eq]

/-- What JSR writes besides PC: the link register, then the parameter register (R466). -/
def State.linked (p : Config.Params) (ea : Word) (s : State) : State :=
  (s.writeGpr p.linkReg (BitVec.ofNat 16 (s.pc.toNat + 1))).writeGpr p.paramReg (ea + 1#16)

theorem linked_agrees {t u : State} (p : Config.Params) (ea : Word) (h : AgreesWith t u) :
    AgreesWith (t.linked p ea) (u.linked p ea) :=
  agreesWith_map (State.linked p ea) (fun _ _ _ => rfl) h

theorem handleJsr_eq (p : Config.Params) (ea : Word) (s : State) :
    handleJsr p ea s = (target ea s).bind fun pc t => .ok (.jump pc) (t.linked p ea) := by
  simp only [handleJsr, State.linked, wrap16_succ, ofNat_toNat_succ]

/-- Settles O20: the target is checked before either register is written. -/
theorem jsrWritesLinkAndParameter : Obligations.JsrWritesLinkAndParameter := by
  intro rx ix ind addr s i s1 ea
  refine ⟨encode_and_opcode_mask .jsr rfl (by decide), params_legal.linkReg_ne_paramReg, fun hready => ?_⟩
  have hmfr : s1.mfr = 0#4 := (scratched_mfr _ s).trans hready.mfr_zero
  have hpc : s.pc = s1.pc := (scratched_pc _ s).symm
  rw [hpc]
  refine reaches_of_handler rfl hready.pointer fun t ht => ?_
  rw [handleJsr_eq]
  exact ends_target_bind ea ht hmfr (linked_agrees _ ea ht) hmfr

/-- Settles O21: the handler reads the link register, which the resolver leaves alone, and checks nothing. -/
theorem rfsReturnsThroughTheLinkRegister : Obligations.RfsReturnsThroughTheLinkRegister := by
  intro rx ix ind immed s i s1
  refine ⟨encode_and_opcode_mask .rfs rfl (by decide), fun hready => ?_⟩
  refine reaches_of_handler rfl hready.pointer fun t ht => ?_
  rw [handleRfs, readGpr_of_agrees ht, readGpr_scratched]
  exact ⟨_, ends_jump _ (writeGpr_agrees _ _ ht) ((scratched_mfr _ s).trans hready.mfr_zero)⟩

end Sys2Proof.Machine

/-!
MLT and DVD (spec/43_register_pair.md R500 to R503): the words of their results are the library's signed
operations on bit vectors, and what each instruction reaches.
-/

namespace Sys2Proof.Machine

open Sys2Proof.Safety

/-! ### The product (R501, R503) -/

/-- No product of two signed words overflows 32 bits (R503). -/
theorem toInt_product (a b : Word) : (product a b).toInt = a.toInt * b.toInt := by
  have hlo : -2 ^ 30 ≤ a.toInt * b.toInt := BitVec.le_toInt_mul_toInt
  have hhi : a.toInt * b.toInt ≤ 2 ^ 30 := BitVec.toInt_mul_toInt_le
  exact BitVec.toInt_ofInt_eq_self (n := a.toInt * b.toInt) (by decide) (by omega) (by omega)

/-- The high word of the 32-bit product is the exact product divided by 2^16, rounded down (R501). -/
theorem product_high (a b : Word) :
    (product a b).extractLsb' 16 16 = BitVec.ofInt 16 (a.toInt * b.toInt / 65536) := by
  apply BitVec.eq_of_toNat_eq
  simp only [product, BitVec.extractLsb'_toNat, BitVec.toNat_ofInt, Nat.shiftRight_eq_div_pow]
  generalize a.toInt * b.toInt = n
  omega

/-! ### The quotient and the remainder (R502, R503) -/

/-- The model's quotient is the signed division of bit vectors. -/
theorem quotient_eq_sdiv (a b : Word) : quotient a b = a.sdiv b := by
  apply BitVec.eq_of_toInt_eq
  rw [quotient, BitVec.toInt_ofInt, BitVec.toInt_sdiv]

/-- The remainder word before it is wrapped is the truncated remainder. -/
theorem remainder_eq_ofInt_tmod (a b : Word) : remainder a b = BitVec.ofInt 16 (a.toInt.tmod b.toInt) := by
  rw [remainder, Int.tmod_def, Int.mul_comm b.toInt]

/-- The model's remainder is the signed remainder of bit vectors. -/
theorem remainder_eq_srem (a b : Word) : remainder a b = a.srem b := by
  rw [remainder_eq_ofInt_tmod, ← BitVec.toInt_srem, BitVec.ofInt_toInt]

/-- The remainder word reads as the exact remainder: none overflows. -/
theorem toInt_remainder (a b : Word) : (remainder a b).toInt = a.toInt.tmod b.toInt := by
  rw [remainder_eq_srem, BitVec.toInt_srem]

/-- -32768 / -1 is the only quotient that overflows (R503). -/
theorem toInt_quotient {a b : Word} (h : ¬ (a = 0x8000#16 ∧ b = 0xFFFF#16)) :
    (quotient a b).toInt = a.toInt.tdiv b.toInt := by
  rw [quotient_eq_sdiv]
  exact BitVec.toInt_sdiv_of_ne_or_ne a b (not_and_or.1 h)

theorem toInt_ne_zero_iff {b : Word} : b.toInt ≠ 0 ↔ b ≠ 0#16 := by
  rw [← BitVec.toInt_zero (w := 16), Ne, BitVec.toInt_inj]

/-- The remainder is smaller than the divisor (R503). -/
theorem natAbs_remainder_lt {a b : Word} (hb : b ≠ 0#16) :
    (remainder a b).toInt.natAbs < b.toInt.natAbs := by
  rw [toInt_remainder, Int.natAbs_tmod]
  exact Nat.mod_lt _ (Int.natAbs_pos.2 (toInt_ne_zero_iff.2 hb))

theorem remainder_nonneg {a : Word} (b : Word) (ha : 0 ≤ a.toInt) : 0 ≤ (remainder a b).toInt := by
  rw [toInt_remainder]
  exact Int.tmod_nonneg _ ha

theorem remainder_nonpos {a : Word} (b : Word) (ha : a.toInt ≤ 0) : (remainder a b).toInt ≤ 0 := by
  have hneg := Int.tmod_nonneg b.toInt (Int.neg_nonneg.2 ha)
  rw [Int.neg_tmod] at hneg
  rw [toInt_remainder]
  exact Int.neg_nonneg.1 hneg

/-- `a = q * b + r` but for the quotient that overflows (R503). -/
theorem quotient_mul_add_remainder {a b : Word} (h : ¬ (a = 0x8000#16 ∧ b = 0xFFFF#16)) :
    a.toInt = (quotient a b).toInt * b.toInt + (remainder a b).toInt := by
  rw [toInt_quotient h, toInt_remainder, Int.tdiv_mul_add_tmod]

/-- Settles O24: the words read as the truncated quotient, the remainder and the product, so the laws are those
of the integers. -/
theorem divisionTruncatesTowardZero : Obligations.DivisionTruncatesTowardZero :=
  ⟨fun _ b hb => ⟨natAbs_remainder_lt hb, remainder_nonneg b, remainder_nonpos b, quotient_mul_add_remainder⟩,
    by decide, by decide, toInt_product⟩

/-! ### The handlers -/

section
variable {p : Config.Params} {rx ry : Fin 4} {s : State}

/-- MLT on even selectors under `MltHighWord = HIGH` writes both product words (R501). -/
theorem handleMlt_high (hp : p.mltHighWord = .high) (hpair : evenPair rx ry = true) (ea : Word) (s : State) :
    handleMlt p rx ry ea s = .ok .next
      ((s.writeGpr (rx + 1) (BitVec.ofInt 16 ((s.readGpr rx).toInt * (s.readGpr ry).toInt))).writeGpr rx
        (BitVec.ofInt 16 ((s.readGpr rx).toInt * (s.readGpr ry).toInt / 65536))) := by
  simp only [handleMlt, hpair, hp, product_low, product_high, if_true]

theorem handleMlt_of_odd (hpair : ¬ evenPair rx ry = true) (ea : Word) (s : State) :
    handleMlt p rx ry ea s = .ok .next s := if_neg hpair

theorem handleDvd_of_odd (hpair : ¬ evenPair rx ry = true) (ea : Word) (s : State) :
    handleDvd rx ry ea s = .ok .next s := if_neg hpair

/-- DVD on even selectors by zero sets CC[2] (R502). -/
theorem handleDvd_by_zero (hpair : evenPair rx ry = true) (hb : s.readGpr ry = 0#16) (ea : Word) :
    handleDvd rx ry ea s = .ok .next (s.setCc (flagSet s.cc 2)) := by
  rw [handleDvd, if_pos hpair, if_pos hb, ccDivideByZero]

/-- DVD on even selectors by a divisor other than 0 writes the quotient, then the remainder (R502). -/
theorem handleDvd_of_ne_zero (hpair : evenPair rx ry = true) (hb : s.readGpr ry ≠ 0#16) (ea : Word) :
    handleDvd rx ry ea s = .ok .next
      ((s.writeGpr rx (BitVec.ofInt 16 ((s.readGpr rx).toInt.tdiv (s.readGpr ry).toInt))).writeGpr (rx + 1)
        (BitVec.ofInt 16 ((s.readGpr rx).toInt.tmod (s.readGpr ry).toInt))) := by
  rw [handleDvd, if_pos hpair, if_neg hb, remainder_eq_ofInt_tmod, quotient]

/-! ### The instructions -/

/-- An instruction whose handler only goes on (R500). -/
theorem reportsWith_of_handler_next {i : Instr} {f : EaFields} {h : Word → State → Res Ending}
    (hi : reportWith p i s = runHandler p f h s) (hh : ∀ ea t, h ea t = .ok .next t) (hs : s.mfr = 0#4)
    (hr : PointerReadable f s) : ReportsWith p i s .ok (scratched f s).advancePc := by
  refine reportsWith_of_handler hi hr fun t ht => ?_
  rw [hh]
  exact ends_next ht ((scratched_mfr f s).trans hs)

variable {u : BitVec 6}

theorem reportsWith_mlt_high (hs : s.mfr = 0#4) (hp : p.mltHighWord = .high)
    (hpair : evenPair rx ry = true) (hr : PointerReadable (.ofRR ry u) s) :
    ReportsWith p (.mlt rx ry u) s .ok
      (((scratched (.ofRR ry u) s).writeGpr (rx + 1)
        (BitVec.ofInt 16 ((s.readGpr rx).toInt * (s.readGpr ry).toInt))).writeGpr rx
        (BitVec.ofInt 16 ((s.readGpr rx).toInt * (s.readGpr ry).toInt / 65536))).advancePc := by
  refine reportsWith_of_handler rfl hr fun t ht => ?_
  rw [handleMlt_high hp hpair, readGpr_of_agrees ht, readGpr_of_agrees ht, readGpr_scratched,
    readGpr_scratched]
  exact ends_next (writeGpr_agrees _ _ (writeGpr_agrees _ _ ht)) ((scratched_mfr _ s).trans hs)

theorem reportsWith_dvd_of_ne_zero (hs : s.mfr = 0#4) (hpair : evenPair rx ry = true)
    (hb : s.readGpr ry ≠ 0#16) (hr : PointerReadable (.ofRR ry u) s) :
    ReportsWith p (.dvd rx ry u) s .ok
      (((scratched (.ofRR ry u) s).writeGpr rx
        (BitVec.ofInt 16 ((s.readGpr rx).toInt.tdiv (s.readGpr ry).toInt))).writeGpr (rx + 1)
        (BitVec.ofInt 16 ((s.readGpr rx).toInt.tmod (s.readGpr ry).toInt))).advancePc := by
  refine reportsWith_of_handler rfl hr fun t ht => ?_
  have hread (r : Fin 4) : t.readGpr r = s.readGpr r := by rw [readGpr_of_agrees ht, readGpr_scratched]
  rw [handleDvd_of_ne_zero hpair (by rwa [hread]), hread, hread]
  exact ends_next (writeGpr_agrees _ _ (writeGpr_agrees _ _ ht)) ((scratched_mfr _ s).trans hs)

theorem reportsWith_dvd_by_zero (hs : s.mfr = 0#4) (hpair : evenPair rx ry = true)
    (hb : s.readGpr ry = 0#16) (hr : PointerReadable (.ofRR ry u) s) :
    ReportsWith p (.dvd rx ry u) s .ok ((scratched (.ofRR ry u) s).setCc (flagSet s.cc 2)).advancePc := by
  refine reportsWith_of_handler rfl hr fun t ht => ?_
  rw [handleDvd_by_zero hpair (by rwa [readGpr_of_agrees ht, readGpr_scratched]), ht.cc, scratched_cc]
  exact ends_next (setCc_agrees _ ht) ((scratched_mfr _ s).trans hs)

end

/-- Settles O22: whether the selectors are even. -/
theorem mltWritesTheExactProduct : Obligations.MltWritesTheExactProduct := by
  intro rx ry u s i s1 n
  refine ⟨encode_and_opcode_mask .mlt rfl (by decide), fun hready => ?_⟩
  obtain ⟨hs, hr⟩ := hready
  rw [← evenPair_iff]
  refine ⟨fun hpair => ?even, fun hodd => ?odd⟩
  case even => exact reaches_of_reportsWith (reportsWith_mlt_high hs rfl hpair hr)
  case odd => exact reaches_of_reportsWith (reportsWith_of_handler_next rfl (handleMlt_of_odd hodd) hs hr)

/-- Settles O23: whether the selectors are even, then whether the divisor is 0. -/
theorem dvdWritesQuotientAndRemainderOrSetsCcTwo : Obligations.DvdWritesQuotientAndRemainderOrSetsCcTwo := by
  intro rx ry u s i s1 a b
  refine ⟨encode_and_opcode_mask .dvd rfl (by decide), fun hready => ?_⟩
  obtain ⟨hs, hr⟩ := hready
  rw [← evenPair_iff]
  refine ⟨fun hpair hb => ?divides, fun hpair hb => ⟨flagSet s.cc 2, getMsbD_flagSet s.cc 2, ?byZero⟩,
    fun hodd => ?odd⟩
  case divides =>
    exact reaches_of_reportsWith (reportsWith_dvd_of_ne_zero hs hpair (toInt_ne_zero_iff.1 hb) hr)
  case byZero =>
    have hzero : s.readGpr ry = 0#16 := BitVec.eq_of_toInt_eq hb
    exact reaches_of_reportsWith (reportsWith_dvd_by_zero hs hpair hzero hr)
  case odd => exact reaches_of_reportsWith (reportsWith_of_handler_next rfl (handleDvd_of_odd hodd) hs hr)

end Sys2Proof.Machine

/-!
AND, ORR and NOT (spec/44_logic.md R521 to R523): one handler, up to the word it computes from the general
registers.
-/

namespace Sys2Proof.Machine

open Sys2Proof.Safety

/-- The handler AND, ORR and NOT share: a register becomes a word computed from the general registers alone
(R521, R522, R523). -/
def updateByRegisters (value : (Fin 4 → Word) → Word) (r : Fin 4) (_ea : Word) (s : State) : Res Ending :=
  .ok .next (s.writeGpr r (value s.readGpr))

theorem handleAnd_eq (rx ry : Fin 4) : handleAnd rx ry = updateByRegisters (fun g => g rx &&& g ry) rx := rfl
theorem handleOrr_eq (rx ry : Fin 4) : handleOrr rx ry = updateByRegisters (fun g => g rx ||| g ry) rx := rfl
theorem handleNot_eq (rx : Fin 4) : handleNot rx = updateByRegisters (fun g => ~~~ g rx) rx := rfl

section
variable {p : Config.Params} {s : State}

/-- The word is computed from the registers as they were before the instruction: the resolver writes none
(R310). -/
theorem reportsWith_updateByRegisters {i : Instr} {f : EaFields} {r : Fin 4} (value : (Fin 4 → Word) → Word)
    (hi : reportWith p i s = runHandler p f (updateByRegisters value r) s) (hs : s.mfr = 0#4)
    (hr : PointerReadable f s) :
    ReportsWith p i s .ok ((scratched f s).writeGpr r (value s.readGpr)).advancePc := by
  refine reportsWith_of_handler hi hr fun t ht => ?_
  have hread : t.readGpr = s.readGpr := funext fun k => by rw [readGpr_of_agrees ht, readGpr_scratched]
  rw [updateByRegisters, hread]
  exact ends_next (writeGpr_agrees r _ ht) ((scratched_mfr f s).trans hs)

variable {rx ry : Fin 4} {u : BitVec 6} {n : BitVec 8}

theorem reportsWith_and (hs : s.mfr = 0#4) (hr : PointerReadable (.ofRR ry u) s) :
    ReportsWith p (.and rx ry u) s .ok
      ((scratched (.ofRR ry u) s).writeGpr rx (s.readGpr rx &&& s.readGpr ry)).advancePc :=
  reportsWith_updateByRegisters (fun g => g rx &&& g ry) (by rw [← handleAnd_eq]; rfl) hs hr

theorem reportsWith_orr (hs : s.mfr = 0#4) (hr : PointerReadable (.ofRR ry u) s) :
    ReportsWith p (.orr rx ry u) s .ok
      ((scratched (.ofRR ry u) s).writeGpr rx (s.readGpr rx ||| s.readGpr ry)).advancePc :=
  reportsWith_updateByRegisters (fun g => g rx ||| g ry) (by rw [← handleOrr_eq]; rfl) hs hr

theorem reportsWith_not (hs : s.mfr = 0#4) (hr : PointerReadable (.ofNot n) s) :
    ReportsWith p (.not rx n) s .ok
      ((scratched (.ofNot n) s).writeGpr rx (~~~ s.readGpr rx)).advancePc :=
  reportsWith_updateByRegisters (fun g => ~~~ g rx) (by rw [← handleNot_eq]; rfl) hs hr

end

/-- Settles O26: each word is named, and its bits are the library's facts about `&&&`, `|||` and `~~~`; AND and
ORR have the same resolver fields, so what makes one ready makes the other. -/
theorem logicInstructionsActBitwise : Obligations.LogicInstructionsActBitwise := by
  intro rx ry u n s s1 s2
  refine ⟨⟨encode_and_opcode_mask .and rfl (by decide), encode_and_opcode_mask .orr rfl (by decide),
    encode_and_opcode_mask .not rfl (by decide)⟩, fun ⟨hs, hr⟩ => ⟨?conjunction, ?disjunction⟩,
    fun ⟨hs, hr⟩ => ?complement⟩
  case conjunction =>
    exact ⟨s.readGpr rx &&& s.readGpr ry, fun _ => BitVec.getLsbD_and,
      reaches_of_reportsWith (reportsWith_and hs hr)⟩
  case disjunction =>
    exact ⟨s.readGpr rx ||| s.readGpr ry, fun _ => BitVec.getLsbD_or,
      reaches_of_reportsWith (reportsWith_orr hs hr)⟩
  case complement =>
    refine ⟨~~~ s.readGpr rx, fun j hj => ?_, reaches_of_reportsWith (reportsWith_not hs hr)⟩
    rw [BitVec.getLsbD_not, decide_eq_true hj, Bool.true_and]

end Sys2Proof.Machine

/-!
SRC and RRC (spec/45_shift_rotate.md R541, R542): the words they compute, as the library's shifts and rotates
of bit vectors, and the handler they share with the logic instructions, up to that word.
-/

namespace Sys2Proof.Machine

open Sys2Proof.Safety

/-! ### The shift (R541) -/

theorem shiftWord_left (al : Bool) (v : Word) (c : Nat) :
    shiftWord al true v c = BitVec.ofNat 16 (v.toNat * 2 ^ c) := by
  apply BitVec.eq_of_toNat_eq
  rw [shiftWord, if_pos rfl, BitVec.toNat_shiftLeft, BitVec.toNat_ofNat, Nat.shiftLeft_eq]

theorem shiftWord_right_logical (v : Word) (c : Nat) :
    shiftWord true false v c = BitVec.ofNat 16 (v.toNat / 2 ^ c) := by
  rw [← Nat.shiftRight_eq_div_pow, ← BitVec.toNat_ushiftRight, BitVec.ofNat_toNat, BitVec.setWidth_eq]
  rfl

theorem shiftWord_right_arithmetic (v : Word) (c : Nat) :
    shiftWord false false v c = BitVec.ofInt 16 (v.toInt / 2 ^ c) := by
  have hdiv : v.toInt / 2 ^ c = v.toInt >>> c := by
    rw [Int.shiftRight_eq_div_pow, Nat.cast_pow, Nat.cast_ofNat]
  rw [hdiv]
  rfl

/-- The three shifts in integer arithmetic; only the right shift distinguishes the modes (R541). -/
theorem shiftWord_eq (al lr : Bool) (v : Word) (c : Nat) :
    shiftWord al lr v c =
      if lr then BitVec.ofNat 16 (v.toNat * 2 ^ c)
      else if al then BitVec.ofNat 16 (v.toNat / 2 ^ c)
      else BitVec.ofInt 16 (v.toInt / 2 ^ c) := by
  match al, lr with
  | al, true => exact shiftWord_left al v c
  | true, false => exact shiftWord_right_logical v c
  | false, false => exact shiftWord_right_arithmetic v c

/-! ### The rotate (R542) -/

/-- The model's left rotate is the one of bit vectors. -/
theorem rotateWord_left (v : Word) (c : Nat) : rotateWord true v c = v.rotateLeft c := rfl

/-- The model's right rotate is the one of bit vectors. -/
theorem rotateWord_right (v : Word) (c : Nat) : rotateWord false v c = v.rotateRight c := rfl

/-- The bit a left rotate brings to bit `j` is the one `c` places below it, around the word. -/
theorem getLsbD_rotateWord_left (v : Word) (c : Nat) {j : Nat} (hj : j < 16) :
    (rotateWord true v c).getLsbD j = v.getLsbD ((j + (16 - c % 16)) % 16) := by
  rw [rotateWord_left, BitVec.getLsbD_rotateLeft, decide_eq_true hj, Bool.true_and, Bool.cond_decide,
    ← apply_ite v.getLsbD]
  congr 1
  split <;> omega

/-- The bit a right rotate brings to bit `j` is the one `c` places above it, around the word. -/
theorem getLsbD_rotateWord_right (v : Word) (c : Nat) {j : Nat} (hj : j < 16) :
    (rotateWord false v c).getLsbD j = v.getLsbD ((j + c) % 16) := by
  rw [rotateWord_right, BitVec.getLsbD_rotateRight, decide_eq_true hj, Bool.true_and, Bool.cond_decide,
    ← apply_ite v.getLsbD]
  congr 1
  split <;> omega

/-- Where a left rotate takes bit `j`. -/
theorem getLsbD_rotateWord_left_add (v : Word) (c : Nat) {j : Nat} (hj : j < 16) :
    (rotateWord true v c).getLsbD ((j + c) % 16) = v.getLsbD j := by
  rw [getLsbD_rotateWord_left v c (Nat.mod_lt _ (by decide))]
  congr 1
  omega

/-- Left by `k` and right by `16 - k` bring the same bit to each place. -/
theorem rotateWord_left_eq_right (v : Word) {k : Nat} (hk : k ≤ 16) :
    rotateWord true v k = rotateWord false v (16 - k) := by
  refine BitVec.eq_of_getLsbD_eq fun j hj => ?_
  rw [getLsbD_rotateWord_left v k hj, getLsbD_rotateWord_right v (16 - k) hj]
  congr 1
  omega

theorem rotateWord_right_width (v : Word) : rotateWord false v 16 = v := by
  refine BitVec.eq_of_getLsbD_eq fun j hj => ?_
  rw [getLsbD_rotateWord_right v 16 hj, Nat.add_mod_right, Nat.mod_eq_of_lt hj]

/-- A rotate by the width of the word is the identity; to the left because it is the right rotate by 0. -/
theorem rotateWord_width (lr : Bool) (v : Word) : rotateWord lr v 16 = v := by
  cases lr with
  | false => exact rotateWord_right_width v
  | true =>
    calc rotateWord true v 16
      _ = rotateWord false v 0 := rotateWord_left_eq_right v (Nat.le_refl 16)
      _ = rotateWord false v 16 := rfl
      _ = v := rotateWord_right_width v

/-! ### The instructions -/

theorem handleSrc_eq (r : Fin 4) (al lr : Bool) (c : Nat) :
    handleSrc r al lr c = updateByRegisters (fun g => shiftWord al lr (g r) c) r := rfl
theorem handleRrc_eq (r : Fin 4) (lr : Bool) (c : Nat) :
    handleRrc r lr c = updateByRegisters (fun g => rotateWord lr (g r) c) r := rfl

section
variable {p : Config.Params} {s : State} {r : Fin 4} {al lr : Bool} {u : BitVec 2} {c : Nat}

theorem reportsWith_src (hs : s.mfr = 0#4) (hr : PointerReadable (.ofSH al lr u c) s) :
    ReportsWith p (.src r al lr u c) s .ok
      ((scratched (.ofSH al lr u c) s).writeGpr r (shiftWord al lr (s.readGpr r) c)).advancePc :=
  reportsWith_updateByRegisters (fun g => shiftWord al lr (g r) c) (by rw [← handleSrc_eq]; rfl) hs hr

theorem reportsWith_rrc (hs : s.mfr = 0#4) (hr : PointerReadable (.ofSH al lr u c) s) :
    ReportsWith p (.rrc r al lr u c) s .ok
      ((scratched (.ofSH al lr u c) s).writeGpr r (rotateWord lr (s.readGpr r) c)).advancePc :=
  reportsWith_updateByRegisters (fun g => rotateWord lr (g r) c) (by rw [← handleRrc_eq]; rfl) hs hr

end

/-- Settles O27: the word SRC writes is the shift in integer arithmetic. -/
theorem srcShiftsByItsCount : Obligations.SrcShiftsByItsCount := by
  intro r al lr u c s i s1 v
  refine ⟨encode_and_opcode_mask .src rfl (by decide), fun ⟨hs, hr⟩ => ?_⟩
  rw [← shiftWord_eq]
  exact reaches_of_reportsWith (reportsWith_src hs hr)

/-- Settles O28: the word is named, and the direction decides which way its bits are read. -/
theorem rrcRotatesByItsCount : Obligations.RrcRotatesByItsCount := by
  intro r al lr u c s i s1 v
  refine ⟨⟨encode_and_opcode_mask .rrc rfl (by decide), rotateWord_width,
    fun w _ hk => rotateWord_left_eq_right w hk⟩, fun ⟨hs, hr⟩ => ⟨rotateWord lr v c, fun j hj => ?bits,
    reaches_of_reportsWith (reportsWith_rrc hs hr)⟩⟩
  cases lr with
  | false => exact getLsbD_rotateWord_right v c hj
  | true => exact getLsbD_rotateWord_left_add v c hj

end Sys2Proof.Machine

/-!
FADD, FSUB, CNVRT, LDFR and STFR at every effective address, and the selectors none of them has
(spec/48_float_vector.md R601 to R606).
-/

namespace Sys2Proof.Machine

open Sys2Proof.Safety

theorem writeFr_agrees {t u : State} (f : Fin 2) (v : Word) (h : AgreesWith t u) :
    AgreesWith (t.writeFr f v) (u.writeFr f v) :=
  agreesWith_map (State.writeFr · f v) (fun _ _ _ => rfl) h

/-! ### The selectors 2 and 3 (R601) -/

theorem frSel_of_undefined {sel : Fin 4} (h : 2 ≤ sel.val) (s : State) :
    frSel sel s = raise .illegalOpcode s := by
  rcases frSel_cases sel s with ⟨f, hf, -⟩ | ⟨-, e⟩
  · omega
  · exact e

/-- An instruction whose handler reads its selector first does nothing else when the selector is undefined. -/
theorem reportsWith_undefined_selector {p : Config.Params} {i : Instr} {s : State} {f : EaFields} {sel : Fin 4}
    {g : Word → Fin 2 → State → Res Ending}
    (hi : reportWith p i s = runHandler p f (fun ea t => (frSel sel t).bind (g ea)) s)
    (hs : s.mfr = 0#4) (hr : PointerReadable f s) (hsel : 2 ≤ sel.val) :
    ReportsWith p i s (.faulted .illegalOpcode) (faulted p .illegalOpcode (scratched f s)) := by
  refine reportsWith_of_handler hi hr fun t ht => ?_
  rw [frSel_of_undefined hsel, raise_bind]
  exact ends_raise _ ht ((scratched_mfr f s).trans hs)

/-- Settles O40: each of the six handlers reads its selector first. -/
theorem undefinedFloatSelectorsAreIllegal : Obligations.UndefinedFloatSelectorsAreIllegal := by
  intro fr ix ind addr s s1 ⟨hs, hr⟩ hsel
  refine ⟨?fadd, ?fsub, ?vadd, ?vsub, ?ldfr, ?stfr⟩
  all_goals exact reaches_of_reportsWith (reportsWith_undefined_selector rfl hs hr hsel)

/-! ### FADD and FSUB -/

/-- The handler FADD and FSUB share (R602, R603): the floating register becomes `op` of itself and the word at
`ea`. -/
def updateFrByMemory (op : Word → Word → Word) (sel : Fin 4) (ea : Word) (s : State) : Res Ending :=
  (frSel sel s).bind fun f s =>
    (memRead (s16 ea) s).bind fun m s => .ok .next (s.writeFr f (op (s.readFr f) m))

theorem handleFadd_eq (p : Config.Params) (sel : Fin 4) : handleFadd p sel = updateFrByMemory p.fAdd sel := rfl
theorem handleFsub_eq (p : Config.Params) (sel : Fin 4) : handleFsub p sel = updateFrByMemory p.fSub sel := rfl

section
variable {p : Config.Params} {i : Instr} {s : State} {e : EaFields} {op : Word → Word → Word} {sel : Fin 4}
  {f : Fin 2}

theorem updateFrByMemory_of_val (hf : sel.val = f.val) (ea : Word) (s : State) :
    updateFrByMemory op sel ea s =
      (memRead (s16 ea) s).bind fun m s => .ok .next (s.writeFr f (op (s.readFr f) m)) := by
  rw [updateFrByMemory, frSel_of_val hf, Res.ok_bind]

/-- FADD and FSUB at an existing address (R602, R603). -/
theorem reportsWith_updateFrByMemory (hi : reportWith p i s = runHandler p e (updateFrByMemory op sel) s)
    (hs : s.mfr = 0#4) (hr : PointerReadable e s) (hf : sel.val = f.val)
    (ha : Addressable (effectiveAddress e s)) :
    ReportsWith p i s .ok
      ((scratched e s).writeFr f
        (op (s.readFr f) ((scratched e s).mem.read (effectiveAddress e s).toNat))).advancePc := by
  refine reportsWith_of_handler hi hr fun t ht => ?_
  rw [updateFrByMemory_of_val hf]
  refine ends_memRead_bind ht ha fun t' ht' => ?_
  rw [readFr_of_agrees ht', readFr_scratched]
  exact ends_next (writeFr_agrees f _ ht') ((scratched_mfr e s).trans hs)

/-- FADD and FSUB at a missing address write no register (R602, R603). -/
theorem reportsWith_updateFrByMemory_missing
    (hi : reportWith p i s = runHandler p e (updateFrByMemory op sel) s)
    (hs : s.mfr = 0#4) (hr : PointerReadable e s) (hf : sel.val = f.val)
    (ha : ¬ Addressable (effectiveAddress e s)) :
    ReportsWith p i s (.faulted .illegalAddress) (faulted p .illegalAddress (scratched e s)) := by
  refine reportsWith_of_handler hi hr fun t ht => ?_
  rw [updateFrByMemory_of_val hf]
  exact ends_memRead_bind_missing ht ((scratched_mfr e s).trans hs) ha

end

section
variable (p : Config.Params) (sel ix : Fin 4) (ind : Bool) (addr : Nat) (s : State)

theorem reportWith_fadd : reportWith p (.fadd sel ix ind addr) s =
    runHandler p ⟨ix, ind, addr⟩ (updateFrByMemory p.fAdd sel) s := by
  rw [← handleFadd_eq]; rfl

theorem reportWith_fsub : reportWith p (.fsub sel ix ind addr) s =
    runHandler p ⟨ix, ind, addr⟩ (updateFrByMemory p.fSub sel) s := by
  rw [← handleFsub_eq]; rfl

end

/-- Settles O33: the two share a handler up to the configured function. -/
theorem faddAndFsubApplyTheConfiguredFunctions : Obligations.FaddAndFsubApplyTheConfiguredFunctions := by
  intro fr ix ind addr f s s1 ea
  refine ⟨encode_and_opcode_mask .fadd rfl (by decide), encode_and_opcode_mask .fsub rfl (by decide),
    fun ⟨hs, hr⟩ hf => ?_⟩
  have fadd := reportWith_fadd Config.params fr ix ind addr s
  have fsub := reportWith_fsub Config.params fr ix ind addr s
  refine ⟨fun ha => ⟨?add, ?subtract⟩, fun ha => ⟨?addMissing, ?subtractMissing⟩⟩
  case add => exact reaches_of_reportsWith (reportsWith_updateFrByMemory fadd hs hr hf ha)
  case subtract => exact reaches_of_reportsWith (reportsWith_updateFrByMemory fsub hs hr hf ha)
  case addMissing => exact reaches_of_reportsWith (reportsWith_updateFrByMemory_missing fadd hs hr hf ha)
  case subtractMissing => exact reaches_of_reportsWith (reportsWith_updateFrByMemory_missing fsub hs hr hf ha)

/-! ### CNVRT -/

theorem handleCnvrt_register {p : Config.Params} (hp : p.cnvrtSource = .register) (r : Fin 4) (ea : Word)
    (s : State) :
    handleCnvrt p r ea s = .ok .next (convert p r (s.readFr 0) (s.readGpr r) s) := by
  rw [handleCnvrt, hp]

/-- CNVRT under REGISTER makes no access, so no address faults (R604). -/
theorem reportsWith_cnvrt_register {p : Config.Params} {r ix : Fin 4} {ind : Bool} {addr : Nat} {s : State}
    (hs : s.mfr = 0#4) (hp : p.cnvrtSource = .register) (hr : PointerReadable ⟨ix, ind, addr⟩ s) :
    ReportsWith p (.cnvrt r ix ind addr) s .ok
      (convert p r (s.readFr 0) (s.readGpr r) (scratched ⟨ix, ind, addr⟩ s)).advancePc := by
  refine reportsWith_of_handler rfl hr fun t ht => ?_
  rw [handleCnvrt_register hp, readFr_of_agrees ht, readFr_scratched, readGpr_of_agrees ht, readGpr_scratched]
  refine ends_next (agreesWith_map _ (convert_setBuffers p r _ _) ht) ?_
  rw [convert_mfr, scratched_mfr, hs]

/-- Settles O34: the direction is that of the register before the instruction, which the resolver leaves
alone. -/
theorem cnvrtConvertsInTheDirectionOfTheRegister : Obligations.CnvrtConvertsInTheDirectionOfTheRegister := by
  intro r ix ind addr s i s1
  refine ⟨encode_and_opcode_mask .cnvrt rfl (by decide), fun ⟨hs, hr⟩ => ?_⟩
  have h := reaches_of_reportsWith (reportsWith_cnvrt_register (r := r) hs rfl hr)
  rw [convert, readGpr_scratched] at h
  refine ⟨fun hzero => ?toInteger, fun hnonzero => ?toFloat⟩
  case toInteger => rwa [if_pos hzero] at h
  case toFloat => rwa [if_neg hnonzero] at h

/-! ### Two reads, at `ea` and `ea + 1` (R605, R607) -/

section
variable {p : Config.Params} {t u v : State} {o : StepOutcome} {ea : Word} {g : Word → Word → State → Res Ending}

/-- A handler that goes on after reading a pair of words that both exist. -/
theorem ends_memRead_pair (h : AgreesWith t u) (ha : 0 ≤ ea.toInt ∧ ea.toInt ≤ 2046)
    (hg : ∀ t', AgreesWith t' u →
      Ends p (g (u.mem.read ea.toNat) (u.mem.read (ea.toNat + 1)) t') o v) :
    Ends p ((memRead (s16 ea) t).bind fun a t => (memRead (s16 ea + 1) t).bind (g a)) o v := by
  have hea := toInt_eq_toNat_of_nonneg ha.1
  refine ends_memRead_bind_at h hea (by omega) fun t' ht' => ?_
  exact ends_memRead_bind_at (n := ea.toNat + 1) ht' (congrArg (· + 1) hea) (by omega) hg

/-- A handler that reads a pair of words of which one is missing. -/
theorem ends_memRead_pair_missing (h : AgreesWith t u) (hu : u.mfr = 0#4)
    (ha : ¬ (0 ≤ ea.toInt ∧ ea.toInt ≤ 2046)) :
    Ends p ((memRead (s16 ea) t).bind fun a t => (memRead (s16 ea + 1) t).bind (g a))
      (.faulted .illegalAddress) (faulted p .illegalAddress u) := by
  by_cases hfirst : Addressable ea
  · refine ends_memRead_bind h hfirst fun t' ht' => ?_
    have hsecond : ¬ (0 ≤ s16 ea + 1 ∧ s16 ea + 1 ≤ 2047) := fun ⟨_, hhi⟩ =>
      ha ⟨hfirst.1, Int.le_of_add_le_add_right hhi⟩
    rw [memRead_outside hsecond, raise_bind]
    exact ends_raise _ ht' hu
  · exact ends_memRead_bind_missing h hu hfirst

end

/-! ### LDFR and STFR -/

/-- The defined values of the ordering flag are those of a selector (R601). -/
theorem exists_selected {fx : Fin 4} (h : fx = 0 ∨ fx = 1) : ∃ f : Fin 2, fx.val = f.val := by
  rcases h with rfl | rfl
  · exact ⟨0, rfl⟩
  · exact ⟨1, rfl⟩

/-- FR0 and FR1 in the order STFR stores them (R606). -/
theorem inFxOrder_frPair {fx : Fin 4} {f : Fin 2} (hf : fx.val = f.val) (s : State) :
    inFxOrder f s.frPair =
      (if fx = 0 then s.readFr 0 else s.readFr 1, if fx = 0 then s.readFr 1 else s.readFr 0) := by
  have hzero : fx = 0 ↔ f = 0 := by rw [Fin.ext_iff, Fin.ext_iff, hf]; rfl
  simp only [inFxOrder, hzero]
  split <;> rfl

section
variable {p : Config.Params} {s : State} {fx ix : Fin 4} {ind : Bool} {addr : Nat} {f : Fin 2}

/-- LDFR writes neither register when one of its words is missing (R605). -/
theorem reportsWith_ldfr_missing (hs : s.mfr = 0#4) (hr : PointerReadable ⟨ix, ind, addr⟩ s)
    (hf : fx.val = f.val)
    (ha : ¬ (0 ≤ (effectiveAddress ⟨ix, ind, addr⟩ s).toInt ∧
      (effectiveAddress ⟨ix, ind, addr⟩ s).toInt ≤ 2046)) :
    ReportsWith p (.ldfr fx ix ind addr) s (.faulted .illegalAddress)
      (faulted p .illegalAddress (scratched ⟨ix, ind, addr⟩ s)) := by
  refine reportsWith_of_handler rfl hr fun t ht => ?_
  rw [handleLdfr_of_val hf]
  exact ends_memRead_pair_missing ht ((scratched_mfr _ s).trans hs) ha

/-- STFR to a reserved slot stores nothing (R208, R606). -/
theorem reportsWith_stfr_reserved (hs : s.mfr = 0#4) (hr : PointerReadable ⟨ix, ind, addr⟩ s)
    (hf : fx.val = f.val)
    (ha : 0 ≤ (effectiveAddress ⟨ix, ind, addr⟩ s).toInt ∧
      (effectiveAddress ⟨ix, ind, addr⟩ s).toInt ≤ 9) :
    ReportsWith p (.stfr fx ix ind addr) s (.faulted .protectionViolation)
      (faulted p .protectionViolation (scratched ⟨ix, ind, addr⟩ s)) := by
  refine reportsWith_of_handler rfl hr fun t ht => ?_
  rw [handleStfr_of_val hf]
  exact ends_storeWrite_bind_reserved ht ((scratched_mfr _ s).trans hs) ha

/-- STFR to a missing address stores nothing (R208, R606). -/
theorem reportsWith_stfr_missing (hs : s.mfr = 0#4) (hr : PointerReadable ⟨ix, ind, addr⟩ s)
    (hf : fx.val = f.val) (ha : ¬ Addressable (effectiveAddress ⟨ix, ind, addr⟩ s)) :
    ReportsWith p (.stfr fx ix ind addr) s (.faulted .illegalAddress)
      (faulted p .illegalAddress (scratched ⟨ix, ind, addr⟩ s)) := by
  refine reportsWith_of_handler rfl hr fun t ht => ?_
  rw [handleStfr_of_val hf]
  exact ends_storeWrite_bind_missing ht ((scratched_mfr _ s).trans hs) ha

/-- STFR to the last address keeps its first word when the second faults (R606, R702). -/
theorem reportsWith_stfr_last (hs : s.mfr = 0#4) (hr : PointerReadable ⟨ix, ind, addr⟩ s)
    (hf : fx.val = f.val) (ha : (effectiveAddress ⟨ix, ind, addr⟩ s).toInt = 2047) :
    ReportsWith p (.stfr fx ix ind addr) s (.faulted .illegalAddress)
      (faulted p .illegalAddress ((scratched ⟨ix, ind, addr⟩ s).setMem
        ((scratched ⟨ix, ind, addr⟩ s).mem.write 2047 (inFxOrder f s.frPair).1))) := by
  have hea : effectiveAddress ⟨ix, ind, addr⟩ s = 2047#16 := BitVec.eq_of_toInt_eq ha
  refine reportsWith_of_handler rfl hr fun t ht => ?_
  have hpair : t.frPair = s.frPair := by
    simp only [State.frPair, readFr_of_agrees ht, readFr_scratched]
  rw [hea, handleStfr_of_val hf, hpair]
  refine ends_storeWrite_bind_at (n := 2047) ht rfl (by decide) fun t' ht' => ?_
  rw [storeWrite_outside (by decide), raise_bind]
  exact ends_raise _ ht' ((scratched_mfr _ s).trans hs)

end

/-- Settles O35: the pair in the order of the flag, or one of its words missing. -/
theorem ldfrLoadsThePairInFxOrder : Obligations.LdfrLoadsThePairInFxOrder := by
  intro fx ix ind addr s i s1 ea w0 w1
  refine ⟨encode_and_opcode_mask .ldfr rfl (by decide), fun ⟨hs, hr⟩ => ?_⟩
  rw [← scratched_pc ⟨ix, ind, addr⟩ s]
  refine ⟨?forward, ?swapped, fun hfx ha => ?missing⟩
  case forward =>
    rintro rfl hlo hhi
    exact reaches_of_reportsWith (reportsWith_ldfr (f := 0) hs hr rfl rfl ⟨hlo, hhi⟩)
  case swapped =>
    rintro rfl hlo hhi
    exact reaches_of_reportsWith (reportsWith_ldfr (f := 1) hs hr rfl rfl ⟨hlo, hhi⟩)
  case missing =>
    obtain ⟨f, hf⟩ := exists_selected hfx
    exact reaches_of_reportsWith (reportsWith_ldfr_missing hs hr hf ha)

/-- Settles O36: the cases of the first address, and of the second where the first is stored. -/
theorem stfrStoresThePairInFxOrder : Obligations.StfrStoresThePairInFxOrder := by
  intro fx ix ind addr s i s1 ea a b
  refine ⟨encode_and_opcode_mask .stfr rfl (by decide), fun ⟨hs, hr⟩ hfx => ?_⟩
  obtain ⟨f, hf⟩ := exists_selected hfx
  have hpair : inFxOrder f s.frPair = (a, b) := inFxOrder_frPair hf s
  refine ⟨fun ha => ?both, fun ha => ?reserved, fun ha => ?last, fun ha => ?missing⟩
  case both =>
    have h := reaches_of_reportsWith (reportsWith_stfr hs hr hf rfl ha)
    rw [hpair] at h
    rwa [← scratched_pc ⟨ix, ind, addr⟩ s]
  case reserved => exact reaches_of_reportsWith (reportsWith_stfr_reserved hs hr hf ha)
  case last =>
    have h := reaches_of_reportsWith (reportsWith_stfr_last hs hr hf ha)
    rwa [hpair] at h
  case missing => exact reaches_of_reportsWith (reportsWith_stfr_missing hs hr hf ha)

end Sys2Proof.Machine

/-!
VADD and VSUB (spec/48_float_vector.md R607 to R609): one lane, the lanes in order, and the memory they leave
when the vectors are disjoint.
-/

namespace Sys2Proof.Machine

open Sys2Proof.Safety

/-! ### One lane -/

/-- Lane `k` of a vector instruction (R607): it reads at `A + k`, then at `B + k`, and stores at `A + k`. -/
def lane (op : Word → Word → Word) (A B : Int) (k : Nat) (s : State) : Res Unit :=
  (memRead (A + k) s).bind fun a s => (memRead (B + k) s).bind fun b s => storeWrite (A + k) (op a b) s

theorem laneRuns_iff {A B : Int} {k : Nat} :
    laneRuns A B k = true ↔ (10 ≤ A + k ∧ A + k ≤ 2047) ∧ 0 ≤ B + k ∧ B + k ≤ 2047 := by
  simp [laneRuns, and_assoc]

theorem laneFault_of_inside {A B : Int} {k : Nat} (hA : 0 ≤ A + k ∧ A + k ≤ 2047)
    (hB : 0 ≤ B + k ∧ B + k ≤ 2047) : laneFault A B k = .protectionViolation := by
  simp [laneFault, hA, hB]

theorem laneFault_of_outside {A B : Int} {k : Nat}
    (h : ¬ ((0 ≤ A + k ∧ A + k ≤ 2047) ∧ 0 ≤ B + k ∧ B + k ≤ 2047)) : laneFault A B k = .illegalAddress := by
  refine if_neg fun hin => h ?_
  simpa [and_assoc] using hin

section
variable {op : Word → Word → Word} {A B : Int} {k : Nat} {t u : State}

/-- A lane that meets no fault stores its word and changes nothing else. -/
theorem lane_of_runs (h : laneRuns A B k = true) (ht : AgreesWith t u) :
    ∃ t', lane op A B k t = .ok () t' ∧ AgreesWith t' (u.setMem (u.mem.write (A + k).toNat
      (op (u.mem.read (A + k).toNat) (u.mem.read (B + k).toNat)))) := by
  obtain ⟨hA, hB⟩ := laneRuns_iff.1 h
  obtain ⟨t₁, e₁, h₁⟩ := memRead_inside (n := A + k) ⟨by omega, hA.2⟩ t
  obtain ⟨t₂, e₂, h₂⟩ := memRead_inside hB t₁
  rw [lane, e₁, Res.ok_bind, e₂, Res.ok_bind, storeWrite_program hA, h₁.mem, ht.mem]
  exact ⟨_, rfl, memWrite_agrees _ _ (agreesWith_trans h₂ (agreesWith_trans h₁ ht))⟩

/-- A lane that does not run raises the first fault of its two reads and its store, having stored nothing. -/
theorem lane_of_faults (h : laneRuns A B k = false) (ht : AgreesWith t u) :
    ∃ t', lane op A B k t = raise (laneFault A B k) t' ∧ AgreesWith t' u := by
  by_cases hA : 0 ≤ A + k ∧ A + k ≤ 2047
  case neg =>
    rw [laneFault_of_outside fun hin => hA hin.1, lane, memRead_outside hA, raise_bind]
    exact ⟨t, rfl, ht⟩
  obtain ⟨t₁, e₁, h₁⟩ := memRead_inside hA t
  by_cases hB : 0 ≤ B + k ∧ B + k ≤ 2047
  case neg =>
    rw [laneFault_of_outside fun hin => hB hin.2, lane, e₁, Res.ok_bind, memRead_outside hB, raise_bind]
    exact ⟨t₁, rfl, agreesWith_trans h₁ ht⟩
  obtain ⟨t₂, e₂, h₂⟩ := memRead_inside hB t₁
  have hreserved : 0 ≤ A + k ∧ A + k ≤ 9 := by
    have hnot : ¬ ((10 ≤ A + k ∧ A + k ≤ 2047) ∧ 0 ≤ B + k ∧ B + k ≤ 2047) := fun hruns =>
      Bool.false_ne_true (h.symm.trans (laneRuns_iff.2 hruns))
    omega
  rw [laneFault_of_inside hA hB, lane, e₁, Res.ok_bind, e₂, Res.ok_bind, storeWrite_reserved hreserved]
  exact ⟨t₂, rfl, agreesWith_trans h₂ (agreesWith_trans h₁ ht)⟩

end

/-! ### The lanes in order (R609) -/

theorem Res.bind_assoc {α β γ : Type} (r : Res α) (f : α → State → Res β) (g : β → State → Res γ) :
    (r.bind f).bind g = r.bind fun a s => (f a s).bind g := by
  cases r <;> rfl

section
variable {op : Word → Word → Word} {A B : Int}

theorem vectorLanes_succ (n i : Nat) (s : State) :
    vectorLanes op A B (n + 1) i s = (lane op A B i s).bind fun _ s => vectorLanes op A B n (i + 1) s := by
  simp only [vectorLanes, lane, Res.bind_assoc]

/-- The first `m` lanes, then the `n` after them. -/
theorem vectorLanes_add (m n i : Nat) (s : State) :
    vectorLanes op A B (m + n) i s =
      (vectorLanes op A B m i s).bind fun _ s => vectorLanes op A B n (i + m) s := by
  induction m generalizing i s with
  | zero => rw [Nat.zero_add]; rfl
  | succ m ih =>
    rw [Nat.add_right_comm, vectorLanes_succ, vectorLanes_succ, Res.bind_assoc]
    simp only [ih, Nat.add_assoc, Nat.add_comm 1]

variable {n : Nat} {t u : State}

/-- Lanes none of which faults leave the memory `lanes` says, and nothing else. -/
theorem vectorLanes_of_run (hrun : ∀ j < n, laneRuns A B j = true) (ht : AgreesWith t u) :
    ∃ t', vectorLanes op A B n 0 t = .ok () t' ∧ AgreesWith t' (u.setMem (lanes op A B n u.mem)) := by
  induction n with
  | zero => exact ⟨t, rfl, ht⟩
  | succ n ih =>
    obtain ⟨t₁, e₁, h₁⟩ := ih fun j hj => hrun j (Nat.lt_succ_of_lt hj)
    obtain ⟨t₂, e₂, h₂⟩ := lane_of_runs (op := op) (hrun n (Nat.lt_succ_self n)) h₁
    refine ⟨t₂, ?_, h₂⟩
    rw [vectorLanes_add, e₁, Res.ok_bind, Nat.zero_add, vectorLanes_succ, e₂]
    rfl

/-- Lanes of which `k` is the first to fault: those before it, then its fault. -/
theorem vectorLanes_of_fault {k : Nat} (hk : k < n) (hfault : laneRuns A B k = false)
    (hrun : ∀ j < k, laneRuns A B j = true) (ht : AgreesWith t u) :
    ∃ t', vectorLanes op A B n 0 t = raise (laneFault A B k) t' ∧
      AgreesWith t' (u.setMem (lanes op A B k u.mem)) := by
  obtain ⟨m, rfl⟩ := Nat.exists_eq_add_of_lt hk
  obtain ⟨t₁, e₁, h₁⟩ := vectorLanes_of_run (op := op) hrun ht
  obtain ⟨t₂, e₂, h₂⟩ := lane_of_faults (op := op) hfault h₁
  refine ⟨t₂, ?_, h₂⟩
  rw [Nat.add_assoc, vectorLanes_add, e₁, Res.ok_bind, Nat.zero_add, vectorLanes_succ, e₂, raise_bind]

/-- The two ways `vectorDone` ends: every lane runs, or there is a first that does not. -/
theorem vectorDone_cases (p : Config.Params) (op : Word → Word → Word) (A B : Int) (n : Nat) (s : State) :
    ((∀ j < n, laneRuns A B j = true) ∧
      vectorDone p op A B n s = (s.setMem (lanes op A B n s.mem)).advancePc) ∨
    ∃ k < n, laneRuns A B k = false ∧ (∀ j < k, laneRuns A B j = true) ∧
      vectorDone p op A B n s = faulted p (laneFault A B k) (s.setMem (lanes op A B k s.mem)) := by
  unfold vectorDone
  split
  case h_1 hnone =>
    refine .inl ⟨fun j hj => ?_, rfl⟩
    simpa using List.find?_range_eq_none.1 hnone j hj
  case h_2 k hsome =>
    obtain ⟨hfault, hmem, hrun⟩ := List.find?_range_eq_some.1 hsome
    exact .inr ⟨k, List.mem_range.1 hmem, by simpa using hfault, by simpa using hrun, rfl⟩

/-- The end of a vector instruction none of whose lanes faults (R607). -/
theorem ends_vectorLanes_of_run {p : Config.Params} (hrun : ∀ j < n, laneRuns A B j = true)
    (ht : AgreesWith t u) (hu : u.mfr = 0#4) :
    Ends p ((vectorLanes op A B n 0 t).bind fun _ s => .ok .next s) .ok
      (u.setMem (lanes op A B n u.mem)).advancePc := by
  obtain ⟨t', e, ht'⟩ := vectorLanes_of_run (op := op) hrun ht
  rw [e, Res.ok_bind]
  exact ends_next ht' hu

/-- The end of a vector instruction, from its lanes on (R607, R702). -/
theorem ends_vectorLanes (p : Config.Params) (op : Word → Word → Word) (A B : Int) (n : Nat)
    (hu : u.mfr = 0#4) :
    ∃ o, ∀ t, AgreesWith t u →
      Ends p ((vectorLanes op A B n 0 t).bind fun _ s => .ok .next s) o (vectorDone p op A B n u) := by
  rcases vectorDone_cases p op A B n u with ⟨hrun, hdone⟩ | ⟨k, hk, hfault, hrun, hdone⟩ <;> rw [hdone]
  · exact ⟨.ok, fun t ht => ends_vectorLanes_of_run hrun ht hu⟩
  · refine ⟨.faulted (laneFault A B k), fun t ht => ?_⟩
    obtain ⟨t', e, ht'⟩ := vectorLanes_of_fault (op := op) hk hfault hrun ht
    rw [e, raise_bind]
    exact ends_raise _ ht' hu

end

/-! ### The instructions -/

section
variable (p : Config.Params) (sel ix : Fin 4) (ind : Bool) (addr : Nat) (s : State)

theorem reportWith_vadd : reportWith p (.vadd sel ix ind addr) s =
    runHandler p ⟨ix, ind, addr⟩ (handleVector p (· + ·) sel) s := by
  rw [show (· + ·) = addWord from funext₂ fun a b => (addWord_eq a b).symm]; rfl

theorem reportWith_vsub : reportWith p (.vsub sel ix ind addr) s =
    runHandler p ⟨ix, ind, addr⟩ (handleVector p (· - ·) sel) s := by
  rw [show (· - ·) = subWord from funext₂ fun a b => (subWord_eq a b).symm]; rfl

end

section
variable {p : Config.Params} {op : Word → Word → Word} {i : Instr} {s : State} {e : EaFields} {sel : Fin 4}
  {f : Fin 2} {ea : Word} {A B : Int}

/-- A vector instruction, once its selector is known: the two base words, then the lanes (R607). -/
theorem handleVector_of_val (hf : sel.val = f.val) (ea : Word) (s : State) :
    handleVector p op sel ea s = (memRead (s16 ea) s).bind fun a s => (memRead (s16 ea + 1) s).bind fun b s =>
      (vectorLanes op (s16 a) (s16 b) (p.fCount (s.readFr f)).toNat 0 s).bind fun _ s => .ok .next s := by
  rw [handleVector, frSel_of_val hf, Res.ok_bind]


/-- A vector instruction whose bases `A` and `B` stand at `ea` and `ea + 1` reports what its lanes end with;
their count is of the register as it was before the instruction (R607). -/
theorem reportsWith_of_lanes {v : State} {o : StepOutcome}
    (hi : reportWith p i s = runHandler p e (handleVector p op sel) s) (hr : PointerReadable e s)
    (hf : sel.val = f.val) (hea : effectiveAddress e s = ea) (ha : 0 ≤ ea.toInt ∧ ea.toInt ≤ 2046)
    (hA : ((scratched e s).mem.read ea.toNat).toInt = A)
    (hB : ((scratched e s).mem.read (ea.toNat + 1)).toInt = B)
    (hlanes : ∀ t, AgreesWith t (scratched e s) →
      Ends p ((vectorLanes op A B (p.fCount (s.readFr f)).toNat 0 t).bind fun _ s => .ok .next s) o v) :
    ReportsWith p i s o v := by
  subst hA hB
  refine reportsWith_of_handler hi hr fun t ht => ?_
  rw [hea, handleVector_of_val hf]
  refine ends_memRead_pair ht ha fun t' ht' => ?_
  rw [readFr_of_agrees ht', readFr_scratched]
  exact hlanes t' ht'

/-- A vector instruction one of whose bases is missing stores nothing (R607). -/
theorem reportsWith_vector_missing (hi : reportWith p i s = runHandler p e (handleVector p op sel) s)
    (hs : s.mfr = 0#4) (hr : PointerReadable e s) (hf : sel.val = f.val)
    (ha : ¬ (0 ≤ (effectiveAddress e s).toInt ∧ (effectiveAddress e s).toInt ≤ 2046)) :
    ReportsWith p i s (.faulted .illegalAddress) (faulted p .illegalAddress (scratched e s)) := by
  refine reportsWith_of_handler hi hr fun t ht => ?_
  rw [handleVector_of_val hf]
  exact ends_memRead_pair_missing ht ((scratched_mfr e s).trans hs) ha

end

/-- Settles O37: the two share a handler up to the operation; whether the base words exist, and then how the lanes
end. -/
theorem vaddAndVsubRunTheirLanesInOrder : Obligations.VaddAndVsubRunTheirLanesInOrder := by
  intro fr ix ind addr f s s1 ea A B n
  refine ⟨encode_and_opcode_mask .vadd rfl (by decide), encode_and_opcode_mask .vsub rfl (by decide),
    fun ⟨hs, hr⟩ hf => ?_⟩
  have vadd := reportWith_vadd Config.params fr ix ind addr s
  have vsub := reportWith_vsub Config.params fr ix ind addr s
  have hmfr : s1.mfr = 0#4 := (scratched_mfr _ s).trans hs
  refine ⟨fun ha => ⟨?add, ?subtract⟩, fun ha => ⟨?addMissing, ?subtractMissing⟩⟩
  case add =>
    obtain ⟨o, hlanes⟩ := ends_vectorLanes Config.params (· + ·) A B n hmfr
    exact reaches_of_reportsWith (reportsWith_of_lanes vadd hr hf rfl ha rfl rfl hlanes)
  case subtract =>
    obtain ⟨o, hlanes⟩ := ends_vectorLanes Config.params (· - ·) A B n hmfr
    exact reaches_of_reportsWith (reportsWith_of_lanes vsub hr hf rfl ha rfl rfl hlanes)
  case addMissing => exact reaches_of_reportsWith (reportsWith_vector_missing vadd hs hr hf ha)
  case subtractMissing => exact reaches_of_reportsWith (reportsWith_vector_missing vsub hs hr hf ha)

/-! ### Disjoint vectors -/

section
variable {op : Word → Word → Word} {A B : Int} {n : Nat} {m : Memory}

/-- Lanes that run write program memory only, so they keep the canonical form. -/
theorem lanes_wf (hm : m.wf = true) (hrun : ∀ j < n, laneRuns A B j = true) :
    (lanes op A B n m).wf = true := by
  induction n with
  | zero => exact hm
  | succ n ih =>
    obtain ⟨hA, -⟩ := laneRuns_iff.1 (hrun n (Nat.lt_succ_self n))
    exact Memory.wf_write _ (ih fun j hj => hrun j (Nat.lt_succ_of_lt hj)) (by omega)

/-- The lanes leave every word outside the first vector as it was. -/
theorem read_lanes_outside (hm : m.wf = true) (hrun : ∀ j < n, laneRuns A B j = true) {a : Nat}
    (ha : ∀ j < n, (a : Int) ≠ A + j) : (lanes op A B n m).read a = m.read a := by
  induction n with
  | zero => rfl
  | succ n ih =>
    have hrun' : ∀ j < n, laneRuns A B j = true := fun j hj => hrun j (Nat.lt_succ_of_lt hj)
    obtain ⟨hA, -⟩ := laneRuns_iff.1 (hrun n (Nat.lt_succ_self n))
    have hne := ha n (Nat.lt_succ_self n)
    rw [lanes, Memory.read_write_ne _ (lanes_wf hm hrun') (by omega)]
    exact ih hrun' fun j hj => ha j (Nat.lt_succ_of_lt hj)

/-- On disjoint vectors lane `k` finds both of its words as they were before the first lane, and no later lane
writes its result again. -/
theorem read_lanes_inside (hm : m.wf = true) (hrun : ∀ j < n, laneRuns A B j = true)
    (hdisjoint : ∀ j k : Nat, j < n → k < n → A + j ≠ B + k) {k : Nat} (hk : k < n) :
    (lanes op A B n m).read (A + k).toNat = op (m.read (A + k).toNat) (m.read (B + k).toNat) := by
  induction n with
  | zero => omega
  | succ n ih =>
    have hrun' : ∀ j < n, laneRuns A B j = true := fun j hj => hrun j (Nat.lt_succ_of_lt hj)
    have hwf : (lanes op A B n m).wf = true := lanes_wf hm hrun'
    obtain ⟨hA, hB⟩ := laneRuns_iff.1 (hrun n (Nat.lt_succ_self n))
    obtain ⟨hAk, -⟩ := laneRuns_iff.1 (hrun k hk)
    rcases Nat.lt_succ_iff_lt_or_eq.1 hk with hlt | rfl
    · rw [lanes, Memory.read_write_ne _ hwf (by omega)]
      exact ih hrun' (fun j l hj hl => hdisjoint j l (by omega) (by omega)) hlt
    · have hfirst : (lanes op A B k m).read (A + k).toNat = m.read (A + k).toNat :=
        read_lanes_outside hm hrun' fun j hj => by omega
      have hsecond : (lanes op A B k m).read (B + k).toNat = m.read (B + k).toNat :=
        read_lanes_outside hm hrun' fun j hj => by
          have hne := hdisjoint j k (by omega) hk
          omega
      rw [lanes, Memory.read_write_same _ _ hwf, hfirst, hsecond]

end

theorem scratched_wf (e : EaFields) {s : State} (hs : s.mem.wf = true) : (scratched e s).mem.wf = true := by
  unfold scratched
  split
  · exact Memory.wf_write _ hs (by decide)
  · exact hs

section
variable {p : Config.Params} {op : Word → Word → Word} {i : Instr} {s : State} {e : EaFields} {sel : Fin 4}
  {f : Fin 2} {ea : Word} {A B : Int} {n : Nat}

/-- A vector instruction on disjoint vectors none of whose lanes faults. -/
theorem disjoint_vector (hi : reportWith p i s = runHandler p e (handleVector p op sel) s) (hs : Inv s)
    (hr : PointerReadable e s) (hf : sel.val = f.val) (hea : effectiveAddress e s = ea)
    (ha : 0 ≤ ea.toInt ∧ ea.toInt ≤ 2046) (hA : ((scratched e s).mem.read ea.toNat).toInt = A)
    (hB : ((scratched e s).mem.read (ea.toNat + 1)).toInt = B) (hn : (p.fCount (s.readFr f)).toNat = n)
    (hrun : ∀ j < n, laneRuns A B j = true) (hdisjoint : ∀ j k : Nat, j < n → k < n → A + j ≠ B + k) :
    ∃ t, reportWith p i s = .done .ok t ∧ t.pc = s.pc + 1#12 ∧
      (∀ k : Nat, k < n → t.mem.read (A + k).toNat =
        op ((scratched e s).mem.read (A + k).toNat) ((scratched e s).mem.read (B + k).toNat)) ∧
      ∀ a : Nat, (∀ k : Nat, k < n → (a : Int) ≠ A + k) → t.mem.read a = (scratched e s).mem.read a := by
  subst hn
  have hwf := scratched_wf e hs.mem_wf
  obtain ⟨t, hreport, ht⟩ := reportsWith_of_lanes hi hr hf hea ha hA hB fun _ ht =>
    ends_vectorLanes_of_run hrun ht ((scratched_mfr e s).trans hs.mfr_zero)
  have hmem : t.mem = lanes op A B (p.fCount (s.readFr f)).toNat (scratched e s).mem := ht.mem
  refine ⟨t, hreport, ?pc, fun k hk => ?inside, fun a hout => ?outside⟩
  case pc => rw [ht.pc, ← scratched_pc e s]; rfl
  case inside => rw [hmem, read_lanes_inside hwf hrun hdisjoint hk]
  case outside => rw [hmem, read_lanes_outside hwf hrun hout]

end

/-- Settles O38: which of the two instructions it is. -/
theorem disjointVectorsAddElementwise : Obligations.DisjointVectorsAddElementwise := by
  intro p sub fr ix ind addr f s i s1 ea A B n hs hr hf hlo hhi hrun hdisjoint
  cases sub with
  | false =>
    exact disjoint_vector (reportWith_vadd p fr ix ind addr s) hs hr hf rfl ⟨hlo, hhi⟩ rfl rfl rfl hrun hdisjoint
  | true =>
    exact disjoint_vector (reportWith_vsub p fr ix ind addr s) hs hr hf rfl ⟨hlo, hhi⟩ rfl rfl rfl hrun hdisjoint

end Sys2Proof.Machine

/-!
The arithmetic fault (spec/60_exceptions.md R707): under no instruction but DVD by zero on even selectors does
CC[2] go up, and the fault leaves everything else as it was.
-/

namespace Sys2Proof.Machine

open Sys2Proof.Safety

/-! ### What the parts of a step around the handler keep -/

/-- The state a part of an instruction ends in, raising or not. -/
def Res.state {α : Type} : Res α → State
  | .ok _ s => s
  | .raised _ s => s

@[simp] theorem Res.state_ok {α : Type} (a : α) (s : State) : (Res.ok a s).state = s := rfl
@[simp] theorem Res.state_raised {α : Type} (k : FaultKind) (s : State) :
    (Res.raised k s : Res α).state = s := rfl
@[simp] theorem Res.state_raise {α : Type} (k : FaultKind) (s : State) :
    (raise k s : Res α).state = s.setMfr (mfrRaise k s.mfr) := rfl

section
variable (n : Int) (f : EaFields) (s : State)

@[simp] theorem memRead_state_cc : (memRead n s).state.cc = s.cc := by
  rcases memRead_cases n s with ⟨-, e⟩ | ⟨-, e⟩ <;> rw [e] <;> rfl

@[simp] theorem memRead_state_readGpr (r : Fin 4) : (memRead n s).state.readGpr r = s.readGpr r := by
  rcases memRead_cases n s with ⟨-, e⟩ | ⟨-, e⟩ <;> rw [e] <;> rfl

@[simp] theorem resolve_state_cc : (resolve f s).state.cc = s.cc := by
  rcases resolve_cases f s with ⟨-, e⟩ | ⟨-, e⟩ <;> simp [e]

@[simp] theorem resolve_state_readGpr (r : Fin 4) : (resolve f s).state.readGpr r = s.readGpr r := by
  rcases resolve_cases f s with ⟨-, e⟩ | ⟨-, e⟩ <;> rw [e]
  · rfl
  · exact memRead_state_readGpr _ _ r

end

section
variable (p : Config.Params)

@[simp] theorem complete_cc (r : Res Ending) : (complete p r).cc = r.state.cc := by
  cases r with
  | ok e s =>
    cases e with
    | next | jump => rfl
    | halt => rw [complete]; split <;> rfl
  | raised k s => cases k <;> rfl

@[simp] theorem faultController_cc (s : State) : (faultController p s).cc = s.cc := by
  unfold faultController
  split <;> rfl

theorem finish_state_cc (r : Res Ending) : (finish p r).state.cc = r.state.cc := by
  simp [finish]

/-- An instruction keeps CC when its handler does, run in a state with the general registers and CC of `s`. -/
theorem runHandler_state_cc {f : EaFields} {h : Word → State → Res Ending} {s : State}
    (hh : ∀ ea t, (∀ r, t.readGpr r = s.readGpr r) → (h ea t).state.cc = t.cc) :
    (runHandler p f h s).state.cc = s.cc := by
  have hcc := resolve_state_cc f s
  have hgpr := resolve_state_readGpr f s
  rw [runHandler, finish_state_cc]
  cases hr : resolve f s with
  | ok ea t =>
    rw [hr] at hcc hgpr
    exact (hh ea t hgpr).trans hcc
  | raised k t => rwa [hr] at hcc

end

/-! ### DVD and the arithmetic fault -/

section
variable {p : Config.Params} {rx ry : Fin 4} {u : BitVec 6} {s : State}

theorem handleDvd_state_cc (h : evenPair rx ry = true → s.readGpr ry ≠ 0#16) (ea : Word) :
    (handleDvd rx ry ea s).state.cc = s.cc := by
  by_cases hpair : evenPair rx ry = true
  · rw [handleDvd_of_ne_zero hpair (h hpair)]; rfl
  · rw [handleDvd_of_odd hpair]; rfl

/-- A DVD that is not by zero on even selectors keeps CC (R502, R707). -/
theorem reportWith_dvd_state_cc (h : evenPair rx ry = true → s.readGpr ry ≠ 0#16) :
    (reportWith p (.dvd rx ry u) s).state.cc = s.cc :=
  runHandler_state_cc p fun ea _ hgpr => handleDvd_state_cc (fun hpair => hgpr ry ▸ h hpair) ea

/-- A DVD that changes CC is one by zero on even selectors. -/
theorem dvd_by_zero_of_cc_ne {t : State} (h : exec (.dvd rx ry u) s = .next t) (hcc : t.cc ≠ s.cc) :
    evenPair rx ry = true ∧ s.readGpr ry = 0#16 := by
  obtain ⟨o, hr⟩ := reportWith_of_exec h
  by_contra hnot
  have hkeep := reportWith_dvd_state_cc (p := Config.params) (u := u) (not_and.1 hnot)
  rw [hr] at hkeep
  exact hcc hkeep

end

/-- Only DVD has the mnemonic of DVD. -/
theorem eq_dvd_of_mnemonic {i : Instr} (h : i.mnemonic = .dvd) : ∃ rx ry u, i = .dvd rx ry u := by
  cases i with
  | dvd rx ry u => exact ⟨rx, ry, u, rfl⟩
  | _ => cases h

@[simp] theorem scratched_ir (f : EaFields) (s : State) : (scratched f s).ir = s.ir := by
  unfold scratched; split <;> rfl
@[simp] theorem scratched_halted (f : EaFields) (s : State) : (scratched f s).halted = s.halted := by
  unfold scratched; split <;> rfl

/-- Settles O54: CC[2] is set by DVD only, and a DVD that changes CC is by zero; what such a DVD reports is
read off field by field. -/
theorem arithmeticFaultIsDvdByZeroAndSetsOnlyCcTwo :
    Obligations.ArithmeticFaultIsDvdByZeroAndSetsOnlyCcTwo := by
  refine ⟨fun i s t hexec hclear hset => ?only, fun rx ry u s hs hr hx hy hzero => ?effect⟩
  case only =>
    rcases (conditionCodesChangeOnlyAsTheTableSays i s t hexec 2).1 hclear hset with ⟨-, hi⟩ | ⟨hf, -⟩
    · obtain ⟨rx, ry, u, rfl⟩ := eq_dvd_of_mnemonic hi
      have hcc : t.cc ≠ s.cc := fun e => by rw [e, hclear] at hset; cases hset
      obtain ⟨hpair, hzero⟩ := dvd_by_zero_of_cc_ne hexec hcc
      obtain ⟨hx, hy⟩ := evenPair_iff.1 hpair
      exact ⟨rx, ry, u, rfl, hx, hy, hzero⟩
    · exact absurd hf (by decide)
  case effect =>
    obtain ⟨t, hexec, ht⟩ := reaches_of_reportsWith
      (reportsWith_dvd_by_zero (p := Config.params) hs (evenPair_iff.2 ⟨hx, hy⟩) hzero hr)
    have hcc : t.cc = flagSet s.cc 2 := ht.cc
    refine ⟨t, hexec, fun f => by rw [hcc, getMsbD_flagSet], ?_, ?_, ?_, ?_, ?_, ?_, ?_, ?_, ht.mem⟩
    · rw [ht.pc, ← scratched_pc (.ofRR ry u) s]; rfl
    · exact ht.mfr.trans ((scratched_mfr _ s).trans hs)
    · exact ht.gpr.trans (scratched_gpr _ s)
    · exact ht.x.trans (scratched_x _ s)
    · exact ht.fr.trans (scratched_fr _ s)
    · exact ht.ir.trans (scratched_ir _ s)
    · exact ht.halted.trans (scratched_halted _ s)
    · exact ht.dev.trans (scratched_dev _ s)

end Sys2Proof.Machine

/-!
The fault controller (spec/60_exceptions.md R710) and the host's loader (spec/70_reset_and_hazards.md R802).
-/

namespace Sys2Proof.Machine

open Sys2Proof.Safety

/-- Settles O46: whether MFR is 0. -/
theorem faultControllerRecordsAndRedirects : Obligations.FaultControllerRecordsAndRedirects := by
  intro p s pc'
  exact ⟨faultController_of_mfr_zero p, faultController_of_mfr_ne_zero p⟩

/-! ### Loading one pair -/

section
variable {n : Int} {v : Word} {s : State}

theorem loadPair_of_inside (hn : 0 ≤ n ∧ n ≤ 2047) :
    loadPair n v s = .next (s.setMem (s.mem.write n.toNat v)) := if_pos (inMemory_iff.2 hn)

theorem loadPair_of_outside (hn : ¬ (0 ≤ n ∧ n ≤ 2047)) : loadPair n v s = .refused (.loadLocation n) :=
  if_neg fun e => hn (inMemory_iff.1 e)

variable (rest : List (Int × Word))

/-- A pair inside memory is written before the rest is loaded (R802). -/
theorem hostLoad_cons_of_inside (hn : 0 ≤ n ∧ n ≤ 2047) :
    hostLoad ((n, v) :: rest) s = hostLoad rest (s.setMem (s.mem.write n.toNat v)) := by
  rw [hostLoad, loadPair_of_inside hn]

/-- A pair outside memory is listed as refused, and the rest is loaded as if it were not there (R802). -/
theorem hostLoad_cons_of_outside (hn : ¬ (0 ≤ n ∧ n ≤ 2047)) :
    hostLoad ((n, v) :: rest) s = ((hostLoad rest s).1, n :: (hostLoad rest s).2) := by
  rw [hostLoad, loadPair_of_outside hn]

end

/-! ### Loading a list of pairs -/

/-- The last pair of the list that names the location `n`, if any. -/
def lastPair (pairs : List (Int × Word)) (n : Nat) : Option (Int × Word) :=
  pairs.reverse.find? fun c => decide (c.1 = (n : Int))

/-- A pair ahead of a list is the last one of a location only where the list names the location nowhere. -/
theorem lastPair_cons (c : Int × Word) (rest : List (Int × Word)) (n : Nat) :
    lastPair (c :: rest) n = (lastPair rest n).or (if c.1 = (n : Int) then some c else none) := by
  simp only [lastPair, List.reverse_cons, List.find?_append, List.find?_singleton, decide_eq_true_eq]

theorem lastPair_cons_of_ne {m : Int} {n : Nat} (h : m ≠ n) (v : Word) (rest : List (Int × Word)) :
    lastPair ((m, v) :: rest) n = lastPair rest n := by
  rw [lastPair_cons, if_neg h, Option.or_none]

/-- After `Load` a word of memory is the value of the last pair that names it, or its old word (R802). -/
theorem hostLoad_read (pairs : List (Int × Word)) {s : State} (w : s.mem.wf = true) {n : Nat}
    (hn : n < 2048) :
    (hostLoad pairs s).1.mem.read n = (lastPair pairs n).elim (s.mem.read n) Prod.snd := by
  induction pairs generalizing s with
  | nil => rfl
  | cons c rest ih =>
    obtain ⟨m, v⟩ := c
    by_cases hm : 0 ≤ m ∧ m ≤ 2047
    · have hwrite : (s.mem.write m.toNat v).wf = true := Memory.wf_write v w (by omega)
      rw [hostLoad_cons_of_inside rest hm, ih hwrite, State.setMem_mem]
      by_cases hmn : m = n
      · subst hmn
        rw [lastPair_cons, if_pos rfl, Int.toNat_natCast, Memory.read_write_same n v w]
        cases lastPair rest n <;> rfl
      · rw [lastPair_cons_of_ne hmn, Memory.read_write_ne v w (by omega)]
    · rw [hostLoad_cons_of_outside rest hm, lastPair_cons_of_ne (by omega)]
      exact ih w

/-- `Load` keeps memory canonical. -/
theorem hostLoad_wf (pairs : List (Int × Word)) {s : State} (w : s.mem.wf = true) :
    (hostLoad pairs s).1.mem.wf = true := by
  induction pairs generalizing s with
  | nil => exact w
  | cons c rest ih =>
    obtain ⟨m, v⟩ := c
    by_cases hm : 0 ≤ m ∧ m ≤ 2047
    · rw [hostLoad_cons_of_inside rest hm]
      exact ih (loadPair_wf w (loadPair_of_inside hm))
    · rw [hostLoad_cons_of_outside rest hm]
      exact ih w

/-- `Load` changes nothing but memory. -/
theorem hostLoad_frame (pairs : List (Int × Word)) (s : State) :
    (hostLoad pairs s).1 = s.setMem (hostLoad pairs s).1.mem := by
  induction pairs generalizing s with
  | nil => rfl
  | cons c rest ih =>
    obtain ⟨m, v⟩ := c
    by_cases hm : 0 ≤ m ∧ m ≤ 2047
    · rw [hostLoad_cons_of_inside rest hm]
      exact ih (s.setMem (s.mem.write m.toNat v))
    · rw [hostLoad_cons_of_outside rest hm]
      exact ih s

/-- `Load` refuses the locations outside memory, in list order (R802). -/
theorem hostLoad_refused (pairs : List (Int × Word)) (s : State) :
    (hostLoad pairs s).2 = (pairs.map Prod.fst).filter fun l => !decide (0 ≤ l ∧ l ≤ 2047) := by
  induction pairs generalizing s with
  | nil => rfl
  | cons c rest ih =>
    obtain ⟨m, v⟩ := c
    rw [List.map_cons, List.filter_cons]
    by_cases hm : 0 ≤ m ∧ m ≤ 2047
    · rw [hostLoad_cons_of_inside rest hm, ih, decide_eq_true hm]; rfl
    · rw [hostLoad_cons_of_outside rest hm, ih, decide_eq_false hm]; rfl

/-- Settles O59: the four facts about the loaded list. -/
theorem loadStoresThePairsVerbatim : Obligations.LoadStoresThePairsVerbatim := by
  intro pairs s w t
  refine ⟨fun n hn => ?_, hostLoad_wf pairs w, hostLoad_frame pairs s, hostLoad_refused pairs s⟩
  rw [hostLoad_read pairs w hn, lastPair]
  cases pairs.reverse.find? fun c => decide (c.1 = (n : Int)) <;> rfl

end Sys2Proof.Machine
